-- ==== Sys2Proof/Word.lean ====
section
/-! DEFINITION. The two word types of the hardware (00_scope.md R5, section 5). -/

namespace Sys2Proof

/-- `u8`: a byte of memory, `A`, `X`, `Y`, an operand byte. -/
abbrev Byte := BitVec 8

/-- `u16`: an address, `PC`, `SP`, the operand of JSR. Its arithmetic is modulo 65536 (R12, R39), so an address outside
0 to 65535 cannot be written down (R40). -/
abbrev Word := BitVec 16

end Sys2Proof
end

