-- ==== Sys2Proof/Config.lean ====
section
/-! DEFINITION. The parameters of the hardware (00_scope.md R5) that the state and the meanings read. The spec leaves no
value of an instruction open, so there is no free value here. -/

namespace Sys2Proof.Config

/-- MEM_SIZE: addresses 0 to 65535 (R5, R21). -/
abbrev memSize : Nat := 65536

/-- Reset PC (R5, R25). No vector is read (R121). -/
abbrev resetPc : Word := 0xFFFC#16

/-- Reset SP (R5, R25). -/
abbrev resetSp : Word := 0x0100#16

/-- What an address that the memory list does not list reads as: the zero-fill of reset (R25, R32). -/
abbrev unlistedByte : Byte := 0x00#8

/-- JSR_SP_DELTA: the integer JSR adds to `SP`, modulo 65536, after its word write. UNVERIFIED: 0 is the decision D2 of the
spec, which asks that it be kept as a named value (R97). Unsafe; notes/assumptions/5.md. -/
abbrev jsrSpDelta : Int := 0

end Sys2Proof.Config
end

