-- ==== Sys2Proof/Machine/State.lean ====
section
/-! DEFINITION. The state of the machine (10_state.md R10), the reasons a step can stop, and the state after reset. -/

namespace Sys2Proof.Machine

/-- The memory array (R21) as a list of (address, byte) pairs. `Memory.wf` in Machine/Ops.lean is its canonical form; an address
it does not list reads as `Config.unlistedByte`. -/
abbrev Memory := List Host.Cell

/-- An output event of the core (43_unknown_opcode.md R102). -/
inductive DiagEvent where
  /-- The diagnostic of an undefined opcode, carrying the opcode byte (R102, D10). -/
  | decodeFail (opcode : Byte)
  deriving DecidableEq, Repr

/-- The state: the fourteen elements of R10, and two of the model's own, which the spec implies or allows: whether a budget is
loaded, and the record of the diagnostics. -/
structure State where
  /-- `PC`, the address of the next instruction byte (R11). -/
  pc : Word
  /-- `SP`, all sixteen bits of it an address (R13). -/
  sp : Word
  /-- `A`, the accumulator (R14). -/
  a : Byte
  /-- `X`, index-register-X (R15). -/
  x : Byte
  /-- `Y`, index-register-Y, which no instruction reads or writes (R16). -/
  y : Byte
  /-- `C`, carry (R17). -/
  flagC : Bool
  /-- `Z`, zero, a stored bit and no function of `A` (R17, C3). -/
  flagZ : Bool
  /-- `I`, interrupt-disable, without function (R17, R108). -/
  flagI : Bool
  /-- `D`, decimal-mode (R17). -/
  flagD : Bool
  /-- `B`, break, without function (R17, R108). -/
  flagB : Bool
  /-- `V`, overflow (R17). -/
  flagV : Bool
  /-- `N`, negative, a stored bit (R17, C3). -/
  flagN : Bool
  /-- `CYC`, the cycle-units that remain of the run; it may be negative and has no width (R20). UNVERIFIED, the spec's decision
  D5; unsafe for a budget beyond a real counter's range; notes/assumptions/7.md. -/
  cyc : Int
  /-- Whether `CYC` holds a budget that an Execute has loaded: the run condition is a run's own (40_execute_cycle.md R70, R71), so a
  core that no Execute has started is idle whatever its `CYC` (60_exceptions.md R118, R119). The MODEL's own field; no instruction
  reads or writes it. DESIGN CHOICE, safe; notes/assumptions/19.md. -/
  budgetLoaded : Bool
  /-- `MEM` (R21). -/
  mem : Memory
  /-- The diagnostics emitted so far, oldest first. The MODEL's own record beside the state, which R102 allows; no meaning reads
  it. DESIGN CHOICE, safe; notes/assumptions/4.md. -/
  diags : List DiagEvent
  deriving DecidableEq, Repr

/-- The reasons a step can stop with a fault: there are none. The hardware raises no exception and every address exists
(60_exceptions.md R105, R110; 20_memory.md R40; 40_execute_cycle.md R72). DEDUCED, safe; notes/assumptions/12.md. -/
inductive Fault where
  deriving DecidableEq, Repr

/-- The reasons for a refusal. No instruction of the hardware is refused (R103). -/
inductive Refusal where
  /-- Raised by `exec` for an instruction that has no meaning yet; no arm raises it now. Safe. -/
  | notModelled (mnemonic : String)
  /-- Raised by `hostStep` for a host operation during a run, a state the spec gives no meaning (70_reset_and_hazards.md R131,
  93_implementation_defined.md I11); never by `step`. Safe. -/
  | hostActsDuringRun
  deriving DecidableEq, Repr

/-- The state right after Reset (R25, R120). `CYC = 0` is the spec's decision D7 (the core is idle), notes/assumptions/8.md; that
no budget is loaded and that the record of diagnostics is empty are the model's own, DESIGN CHOICE, notes/assumptions/19.md and
notes/assumptions/15.md. -/
def State.reset : State where
  pc := Config.resetPc
  sp := Config.resetSp
  a := 0x00#8
  x := 0x00#8
  y := 0x00#8
  flagC := false
  flagZ := false
  flagI := false
  flagD := false
  flagB := false
  flagV := false
  flagN := false
  cyc := 0
  budgetLoaded := false
  mem := []
  diags := []

end Sys2Proof.Machine
end

