-- ==== Sys2Proof/Syntax.lean ====
section
/-! DEFINITION. The instructions, with their operands as the decoder assembles them (30_encoding.md R52, R53). -/

namespace Sys2Proof

/-- The five behaviours of the dispatch (R57, R73). The 252 UNDEF rows of the opcode table are the one constructor `undef`,
which carries the opcode byte: the hardware draws no distinction among them (R101). DESIGN CHOICE, safe:
notes/assumptions/1.md. -/
inductive Instr where
  /-- `LDA #imm8`, opcode 0xA9 (R87). -/
  | ldaImm (imm : Byte)
  /-- `LDA zp8`, opcode 0xA5 (R88). -/
  | ldaZp (zp : Byte)
  /-- `LDA zp8,X`, opcode 0xB5 (R89). -/
  | ldaZpX (zp : Byte)
  /-- `JSR addr16`, opcode 0x20 (R95). -/
  | jsr (target : Word)
  /-- `.byte b`: an opcode byte with no handler (R100). -/
  | undef (opcode : Byte)
  deriving DecidableEq, Repr

end Sys2Proof
end

