-- ==== Sys2Proof/Decode.lean ====
section
/-! DEFINITION. Byte order of a word, the opcode map, the decoder and the encoder (30_encoding.md R50 to R57). -/

namespace Sys2Proof

/-! ### Byte order -/

/-- The notation `(hi, lo)` of 00_scope.md section 5: `hi * 256 + lo` (R36). -/
def joinWord (lo hi : Byte) : Word := hi ++ lo

/-- `v[7:0]` of a word, the byte at the lower address (R37). -/
def lowByte (v : Word) : Byte := v.setWidth 8

/-- `v[15:8]` of a word, the byte at the next address (R37). -/
def highByte (v : Word) : Byte := (v >>> 8).setWidth 8

/-! ### The opcode map -/

/-- R53, row LDA immediate. -/
def opcodeLdaImm : Byte := 0xA9#8

/-- R53, row LDA zero-page. -/
def opcodeLdaZp : Byte := 0xA5#8

/-- R53, row LDA zero-page,X. -/
def opcodeLdaZpX : Byte := 0xB5#8

/-- R53, row JSR. -/
def opcodeJsr : Byte := 0x20#8

/-- The four opcode bytes that have a handler (R53). Every other byte is an undefined opcode (R55, R101). -/
def isDefinedOpcode (op : Byte) : Bool :=
  op == opcodeLdaImm || op == opcodeLdaZp || op == opcodeLdaZpX || op == opcodeJsr

/-- The length in bytes, told from the opcode byte alone (R54). -/
def opcodeLength (op : Byte) : Nat :=
  if op = opcodeJsr then 3
  else if op = opcodeLdaImm ∨ op = opcodeLdaZp ∨ op = opcodeLdaZpX then 2
  else 1

/-! ### The decoder -/

/-- The instruction whose opcode byte is `op` and whose next two bytes in memory are `b1` and `b2`. Total: no byte sequence is
refused (R57). The bytes past the instruction's length have no influence. -/
def decodeBytes (op b1 b2 : Byte) : Instr :=
  if op = opcodeLdaImm then .ldaImm b1
  else if op = opcodeLdaZp then .ldaZp b1
  else if op = opcodeLdaZpX then .ldaZpX b1
  else if op = opcodeJsr then .jsr (joinWord b1 b2)
  else .undef op

/-- Why a list of bytes holds no whole instruction. The machine never meets it: its memory has a byte at every address (R40).
Only a list that ends too early is turned away. -/
inductive DecodeError where
  /-- The list is empty: there is no opcode byte. -/
  | noBytes
  /-- The list ends before the last operand byte of this opcode. -/
  | operandMissing (opcode : Byte)
  deriving DecidableEq, Repr

/-- The instruction at the head of a list of bytes in ascending address order (R50), with the bytes that follow it. -/
def decode (bytes : List Byte) : Except DecodeError (Instr × List Byte) :=
  match bytes with
  | [] => .error .noBytes
  | op :: rest =>
    if rest.length < opcodeLength op - 1 then .error (.operandMissing op)
    else .ok (decodeBytes op (rest.getD 0 0#8) (rest.getD 1 0#8), rest.drop (opcodeLength op - 1))

/-! ### The encoder -/

/-- The bytes of an instruction in ascending address order (R51, R58). -/
def encode (i : Instr) : List Byte :=
  match i with
  | .ldaImm imm => [opcodeLdaImm, imm]
  | .ldaZp zp => [opcodeLdaZp, zp]
  | .ldaZpX zp => [opcodeLdaZpX, zp]
  | .jsr target => [opcodeJsr, lowByte target, highByte target]
  | .undef op => [op]

/-- The length in bytes of an instruction (R51). -/
def instrLength (i : Instr) : Nat :=
  match i with
  | .ldaImm _ => 2
  | .ldaZp _ => 2
  | .ldaZpX _ => 2
  | .jsr _ => 3
  | .undef _ => 1

/-! ### Words as the opcode table numbers them -/

/-- Byte `k` of a table word: the byte stored at the `k`-th address of the instruction. The table's first byte is its bits
7 to 0. -/
def tableByte (nbits w k : Nat) : Byte := BitVec.ofNat 8 ((w % 2 ^ nbits) >>> (8 * k))

/-- The three bytes, the longest instruction, that a table word stands for; every bit above `nbits` is 0. -/
def tableBytes (nbits w : Nat) : List Byte := [tableByte nbits w 0, tableByte nbits w 1, tableByte nbits w 2]

/-- The instruction the decoder reads from a table word. -/
def decodeTableWord (nbits w : Nat) : Option Instr :=
  match decode (tableBytes nbits w) with
  | .ok (i, _) => some i
  | .error _ => none

end Sys2Proof
end

