-- ==== Sys2Proof/Machine/Ops.lean ====
section
/-! DEFINITION. The named operations over memory and registers, and the cycle-charged primitives every instruction is built
from (20_memory.md R32 to R39, 40_execute_cycle.md R65 to R69, 43_unknown_opcode.md R102). The hardware takes no exception and
returns from none (60_exceptions.md R110, R111), so no such operation stands here; the one event it has is `emitDiag`. -/

namespace Sys2Proof.Machine

/-! ### Memory -/

/-- The canonical form: addresses strictly rising, each in range, and no byte equal to what an unlisted address reads as. -/
abbrev Memory.wf (m : Memory) : Prop :=
  m.Pairwise (fun p q => p.1 < q.1) ∧ ∀ c ∈ m, c.1 < Config.memSize ∧ c.2 ≠ Config.unlistedByte

/-- The byte a list gives the address `k`. -/
def Memory.lookup (m : Memory) (k : Nat) : Byte :=
  match m with
  | [] => Config.unlistedByte
  | c :: rest => if c.1 = k then c.2 else Memory.lookup rest k

/-- `m` with no entry for the address `k`. -/
def Memory.without (m : Memory) (k : Nat) : Memory := m.filter (fun c => c.1 != k)

/-- `m` with the entry `(k, v)` put before the first entry of a higher address. -/
def Memory.place (m : Memory) (k : Nat) (v : Byte) : Memory :=
  match m with
  | [] => [(k, v)]
  | c :: rest => if k < c.1 then (k, v) :: c :: rest else c :: Memory.place rest k v

/-- `MemRead(addr, 1)` (R33): no mutation. -/
def Memory.read (m : Memory) (addr : Word) : Byte := m.lookup addr.toNat

/-- `MemWrite(addr, 1, v)` (R34): exactly one byte changes. Writing the unlisted byte removes the entry. -/
def Memory.write (m : Memory) (addr : Word) (v : Byte) : Memory :=
  if v = Config.unlistedByte then m.without addr.toNat else (m.without addr.toNat).place addr.toNat v

/-- `MemRead(addr, 2)` (R36): the low byte stands at `addr`, the high byte at `(addr + 1) mod 65536` (R39). UNVERIFIED, the spec's
decision D4; unsafe; notes/assumptions/6.md. -/
def Memory.readWord (m : Memory) (addr : Word) : Word := joinWord (m.read addr) (m.read (addr + 1#16))

/-- `MemWrite(addr, 2, v)` (R35): the low byte at `addr`, then the high byte at `(addr + 1) mod 65536` (R39). UNVERIFIED, the
spec's decision D4; unsafe; notes/assumptions/6.md. -/
def Memory.writeWord (m : Memory) (addr : Word) (v : Word) : Memory :=
  (m.write addr (lowByte v)).write (addr + 1#16) (highByte v)

/-- The canonical memory that reads like `m`: every listed byte in range written in turn, the first entry of an address last. -/
def Memory.canonical (m : Memory) : Memory :=
  match m with
  | [] => []
  | c :: rest =>
    if c.1 < Config.memSize then (Memory.canonical rest).write (BitVec.ofNat 16 c.1) c.2 else Memory.canonical rest

/-- `m` with the bytes stored at `addr` and the addresses after it, in ascending order modulo 65536. -/
def Memory.writeBytes (m : Memory) (addr : Word) (bytes : List Byte) : Memory :=
  match bytes with
  | [] => m
  | b :: rest => Memory.writeBytes (m.write addr b) (addr + 1#16) rest

/-! ### Register writes -/

/-- `PC <- v`. -/
def State.setPc (s : State) (v : Word) : State := { s with pc := v }

/-- `SP <- v`. -/
def State.setSp (s : State) (v : Word) : State := { s with sp := v }

/-- `A <- v`. -/
def State.setA (s : State) (v : Byte) : State := { s with a := v }

/-- `Z <- z; N <- n`. -/
def State.setLoadFlags (s : State) (z n : Bool) : State := { s with flagZ := z, flagN := n }

/-- `CYC <- v`. -/
def State.setCyc (s : State) (v : Int) : State := { s with cyc := v }

/-- Execute's `CYC <- budget` (R70, R81), which puts the core inside a run where the budget is positive. -/
def State.loadBudget (s : State) (budget : Int) : State := { s with cyc := budget, budgetLoaded := true }

/-- `MEM` becomes `m`. -/
def State.setMem (s : State) (m : Memory) : State := { s with mem := m }

/-- `Diag(op)` (R102): one `DecodeFail(op)` event, in step order; no architectural effect. DESIGN CHOICE, safe: the event is
recorded; notes/assumptions/4.md. -/
def State.emitDiag (s : State) (op : Byte) : State := { s with diags := s.diags ++ [.decodeFail op] }

/-! ### The cycle-charged primitives -/

/-- `Charge(n)` (R69): no memory access; it never tests `CYC`, which may go negative (R75). -/
def charge (n : Int) (s : State) : State := s.setCyc (s.cyc - n)

/-- `FetchByte()` (R65). UNVERIFIED, the spec's decision D3: `PC` wraps; unsafe; notes/assumptions/6.md. -/
def fetchByte (s : State) : Byte × State := (s.mem.read s.pc, charge 1 (s.setPc (s.pc + 1#16)))

/-- `FetchWord()` (R66). UNVERIFIED, the spec's decision D3: `PC` wraps; unsafe; notes/assumptions/6.md. -/
def fetchWord (s : State) : Word × State := (s.mem.readWord s.pc, charge 2 (s.setPc (s.pc + 2#16)))

/-- `ReadByte(a)` (R67): it does not touch `PC`. -/
def readByte (addr : Word) (s : State) : Byte × State := (s.mem.read addr, charge 1 s)

/-- `WriteWord(a, v)` (R68): it changes neither `PC` nor `SP`. -/
def writeWord (addr v : Word) (s : State) : State := charge 2 (s.setMem (s.mem.writeWord addr v))

/-- The state after a `FetchByte` whose byte the decoder has already read: the opcode byte, or an operand byte. -/
def consumeByte (s : State) : State := (fetchByte s).2

/-- The state after a `FetchWord` whose word the decoder has already read. -/
def consumeWord (s : State) : State := (fetchWord s).2

/-! ### Jumping to a subroutine, and the run condition -/

/-- The return word: `(PC - 1) mod 65536`, `PC` being past the whole instruction (42_jsr.md R95, R96). -/
def returnWord (s : State) : Word := s.pc - 1#16

/-- `SP` after the word write of JSR: moved by JSR_SP_DELTA (R97). UNVERIFIED, the spec's decision D2: the delta is 0; unsafe;
notes/assumptions/5.md. -/
def moveSpAfterCall (s : State) : State := s.setSp (s.sp + BitVec.ofInt 16 Config.jsrSpDelta)

/-- The core is inside a run: an Execute has loaded `CYC`, and the run condition `CYC > 0` holds (R70, R71, R76). Otherwise it is idle
(60_exceptions.md R118, R119). DESIGN CHOICE, safe: the loaded budget is a field of the state; notes/assumptions/19.md. -/
def inRun (s : State) : Bool := s.budgetLoaded && decide (0 < s.cyc)

/-- The instruction whose opcode byte stands at `pc`. It looks at three bytes, the longest instruction, modulo 65536; a read has
no side effect (R31) and the bytes past the instruction's length have no influence, so no step can tell. DESIGN CHOICE, safe;
notes/assumptions/2.md. -/
def fetchInstr (m : Memory) (pc : Word) : Instr := decodeBytes (m.read pc) (m.read (pc + 1#16)) (m.read (pc + 2#16))

end Sys2Proof.Machine
end

