-- ==== Sys2Proof/Machine/Operands.lean ====
section
/-! DEFINITION. The address-mode multiplexer (40_execute_cycle.md R74): what each mode consumes, yields and charges. The operand
bytes themselves come with the decoded instruction (30_encoding.md R52). -/

namespace Sys2Proof.Machine

/-- The effective address of the zero-page mode: `zext_16(zp)` (R74). -/
def zeroPageAddr (zp : Byte) : Word := zp.setWidth 16

/-- The effective address of the zero-page,X mode: `zext_16((zp + X) mod 256)`; the carry out of the 8-bit sum is discarded
(R74, R82, R89). -/
def zeroPageXAddr (zp x : Byte) : Word := zeroPageAddr (zp + x)

/-- Immediate mode: one operand byte is consumed; the operand is the value (R74). -/
def immediateOperand (imm : Byte) (s : State) : Byte × State := (imm, consumeByte s)

/-- Zero-page mode and the read at its address: one operand byte is consumed, then `ReadByte(ea)` (R74, R88). -/
def zeroPageOperand (zp : Byte) (s : State) : Byte × State := readByte (zeroPageAddr zp) (consumeByte s)

/-- Zero-page,X mode and the read at its address: one operand byte is consumed, `Charge(1)` for the index addition, then
`ReadByte(ea)` (R74, R80, R89). -/
def zeroPageXOperand (zp : Byte) (s : State) : Byte × State :=
  readByte (zeroPageXAddr zp s.x) (charge 1 (consumeByte s))

/-- Absolute word mode: two operand bytes are consumed; the word is the jump target (R74). -/
def absoluteWordOperand (target : Word) (s : State) : Word × State := (target, consumeWord s)

end Sys2Proof.Machine
end

