-- ==== Sys2Proof/Machine/Jump.lean ====
section
/-! DEFINITION. Jump to subroutine (42_jsr.md), the only control transfer and the only instruction that writes memory. -/

namespace Sys2Proof.Machine

/-- What JSR does once its operand is fetched: the return word at `SP`, `SP` moved by JSR_SP_DELTA, `PC` the target, and the
`Charge(1)` that no primitive accounts for (R95, R97, 40_execute_cycle.md R77). -/
def callSubroutine (r : Word × State) : State :=
  charge 1 ((moveSpAfterCall (writeWord r.2.sp (returnWord r.2) r.2)).setPc r.1)

/-- JSR (R95): the whole step, the opcode byte consumed first (40_execute_cycle.md R72). -/
def execJsr (target : Word) (s : State) : Host.Outcome State Fault Refusal :=
  .next (callSubroutine (absoluteWordOperand target (consumeByte s)))

end Sys2Proof.Machine
end

