-- ==== Sys2Proof/Machine/Flags.lean ====
section
/-! DEFINITION. The one flag computation of the hardware (41_load.md R85) and the load every LDA ends in (R86). -/

namespace Sys2Proof.Machine

/-- Zero detect (40_execute_cycle.md R82). -/
def zeroDetect (v : Byte) : Bool := v == 0x00#8

/-- Sign detect: bit 7 (40_execute_cycle.md R82). -/
def signDetect (v : Byte) : Bool := v.getLsbD 7

/-- `DeriveLoadFlags()` (R85): `Z` and `N` from `A` alone, never from their old values (R18); no other flag. -/
def deriveLoadFlags (s : State) : State := s.setLoadFlags (zeroDetect s.a) (signDetect s.a)

/-- `A <- v; DeriveLoadFlags()`: what every load instruction ends in (R86). -/
def loadAccumulator (r : Byte × State) : State := deriveLoadFlags (r.2.setA r.1)

end Sys2Proof.Machine
end

