-- ==== Sys2Proof/Machine/Load.lean ====
section
/-! DEFINITION. The three load instructions (41_load.md). A meaning is the whole step: the opcode byte is consumed first
(40_execute_cycle.md R72). -/

namespace Sys2Proof.Machine

/-- LDA immediate (R87). -/
def execLdaImm (imm : Byte) (s : State) : Host.Outcome State Fault Refusal :=
  .next (loadAccumulator (immediateOperand imm (consumeByte s)))

/-- LDA zero-page (R88). -/
def execLdaZp (zp : Byte) (s : State) : Host.Outcome State Fault Refusal :=
  .next (loadAccumulator (zeroPageOperand zp (consumeByte s)))

/-- LDA zero-page,X (R89). -/
def execLdaZpX (zp : Byte) (s : State) : Host.Outcome State Fault Refusal :=
  .next (loadAccumulator (zeroPageXOperand zp (consumeByte s)))

end Sys2Proof.Machine
end

