-- ==== Sys2Proof/Machine/Undefined.lean ====
section
/-! DEFINITION. The undefined opcodes (43_unknown_opcode.md). -/

namespace Sys2Proof.Machine

/-- UNDEF (R100): the byte is consumed and the diagnostic emitted; nothing else changes, and the run goes on (R103). -/
def execUndef (op : Byte) (s : State) : Host.Outcome State Fault Refusal :=
  .next ((consumeByte s).emitDiag op)

end Sys2Proof.Machine
end

