-- ==== Sys2Proof/Machine/Dispatch.lean ====
section
/-! DEFINITION. The dispatch (40_execute_cycle.md R73): one arm per constructor of `Instr`, each one call of its meaning. -/

namespace Sys2Proof.Machine

/-- The whole step of the instruction `i` from the state `s`: its bytes are consumed, its effect done, its cycle-units charged. -/
def exec (i : Instr) (s : State) : Host.Outcome State Fault Refusal :=
  match i with
  | .ldaImm imm => Sys2Proof.Machine.execLdaImm imm s
  | .ldaZp zp => Sys2Proof.Machine.execLdaZp zp s
  | .ldaZpX zp => Sys2Proof.Machine.execLdaZpX zp s
  | .jsr target => Sys2Proof.Machine.execJsr target s
  | .undef op => Sys2Proof.Machine.execUndef op s

end Sys2Proof.Machine
end

