-- ==== Sys2Proof/Machine/Step.lean ====
section
/-! DEFINITION. One step of the machine (40_execute_cycle.md R71, R72). -/

namespace Sys2Proof.Machine

/-- One iteration of the execute loop: inside a run, the instruction at `PC`; idle, nothing at all, for all state survives
idleness unchanged (60_exceptions.md R118). DEDUCED, safe: the idle case is notes/assumptions/3.md. -/
def step (s : State) : Host.Outcome State Fault Refusal :=
  if inRun s then exec (fetchInstr s.mem s.pc) s else .next s

/-- `s` with the table word's instruction poked at `PC` and the core inside a run: an idle core gets a budget of 1, which
executes exactly one instruction (60_exceptions.md R117, R119), where its `CYC` is not positive. notes/assumptions/9.md. -/
def State.withFetchWord (s : State) (nbits w : Nat) : State :=
  { s with
    mem := s.mem.writeBytes s.pc (tableBytes nbits w)
    cyc := if 0 < s.cyc then s.cyc else 1
    budgetLoaded := true }

end Sys2Proof.Machine
end

