-- ==== Sys2Proof/Machine/HostOps.lean ====
section
/-! DEFINITION. The host interface (60_exceptions.md R119): what the caller may do to the hardware while the core is idle, and the
run that Execute starts (40_execute_cycle.md R70). -/

namespace Sys2Proof.Machine

/-- The seven flags (10_state.md R17). -/
inductive Flag where
  | carry | zero | interruptDisable | decimalMode | brk | overflow | negative
  deriving DecidableEq, Repr

/-- A register or a flag with the value the host gives it: Preset (10_state.md R27). `CYC` is not among them. -/
inductive Preset where
  | pc (v : Word)
  | sp (v : Word)
  | a (v : Byte)
  | x (v : Byte)
  | y (v : Byte)
  | flag (f : Flag) (v : Bool)
  deriving DecidableEq, Repr

/-- The host operations (R119). -/
inductive HostOp where
  /-- Construct: a new core and memory. Their state is unspecified until Reset, so it is an argument, any state at all (10_state.md
  R25, 93_implementation_defined.md I14). -/
  | construct (unspecified : State)
  /-- Reset (70_reset_and_hazards.md R120). -/
  | reset
  /-- Poke: one byte of memory (20_memory.md R34). -/
  | poke (addr : Word) (v : Byte)
  /-- Preset: one register or flag (10_state.md R27). -/
  | preset (p : Preset)
  /-- Execute with a budget (40_execute_cycle.md R70). -/
  | execute (budget : Int)
  /-- Inspect: reads any element, changes nothing (R119). -/
  | inspect
  deriving DecidableEq, Repr

/-- Construct (R119): every element of R10 is as the argument has it, `CYC` too, so each of them is open until Reset. The new core is
idle whatever its `CYC`, since it is inside no Execute (R119). DESIGN CHOICE, safe: no budget is loaded, no diagnostic has been
emitted, and memory is put in canonical form; notes/assumptions/19.md. -/
def construct (unspecified : State) (_ : State) : State :=
  { unspecified with mem := unspecified.mem.canonical, budgetLoaded := false, diags := [] }

/-- `Reset()` (R120): it reads nothing of the state before it. -/
def resetAll (_ : State) : State := State.reset

/-- Poke (R34, R119): exactly one byte; charges nothing. -/
def poke (addr : Word) (v : Byte) (s : State) : State := s.setMem (s.mem.write addr v)

/-- The host's write of one flag (R27). -/
def presetFlag (f : Flag) (v : Bool) (s : State) : State :=
  match f with
  | .carry => { s with flagC := v }
  | .zero => { s with flagZ := v }
  | .interruptDisable => { s with flagI := v }
  | .decimalMode => { s with flagD := v }
  | .brk => { s with flagB := v }
  | .overflow => { s with flagV := v }
  | .negative => { s with flagN := v }

/-- Preset (R27, R119): exactly one register or flag; charges nothing. -/
def preset (p : Preset) (s : State) : State :=
  match p with
  | .pc v => s.setPc v
  | .sp v => s.setSp v
  | .a v => s.setA v
  | .x v => { s with x := v }
  | .y v => { s with y := v }
  | .flag f v => presetFlag f v s

/-- The loop `while CYC > 0: Step()` of R70, for at most `fuel` steps. -/
def runLoop (fuel : Nat) (s : State) : Host.Outcome State Fault Refusal :=
  match fuel with
  | 0 => .next s
  | k + 1 =>
    if inRun s then
      match step s with
      | .next t => runLoop k t
      | .fault r => .fault r
      | .refused r => .refused r
    else .next s

/-- `Execute(budget)` (R70): `CYC` is loaded afresh (R81), then the loop runs. Each step charges at least 1 (R72), so the budget
itself bounds the number of steps and the fuel never runs out while `CYC > 0`; a budget of zero or less runs none. -/
def execute (budget : Int) (s : State) : Host.Outcome State Fault Refusal :=
  runLoop budget.toNat (s.loadBudget budget)

/-- One host operation. The host acts only while the core is idle (R7, R119); during a run the spec gives its act no meaning
(R131, I11), so it is refused by name. A core that no Execute has started is idle whatever its `CYC`, a constructed one before its
first Reset among them. DESIGN CHOICE, safe; notes/assumptions/10.md and notes/assumptions/19.md. -/
def hostStep (op : HostOp) (s : State) : Host.Outcome State Fault Refusal :=
  if inRun s then .refused .hostActsDuringRun
  else
    match op with
    | .construct unspecified => .next (construct unspecified s)
    | .reset => .next (resetAll s)
    | .poke addr v => .next (poke addr v s)
    | .preset p => .next (preset p s)
    | .execute budget => execute budget s
    | .inspect => .next s

end Sys2Proof.Machine
end

