-- ==== Sys2Proof/Machine/Pseudocode.lean ====
section
/-! DEFINITION. The step as the spec's pseudocode writes it: no decoded instruction, each handler fetching its own operand bytes
from memory at the moment it consumes them (40_execute_cycle.md R72, R73; 41_load.md; 42_jsr.md; 43_unknown_opcode.md). The machine
of Machine/Step.lean decodes first; that the two agree is a statement. Nothing here calls `exec` or `decodeBytes`. -/

namespace Sys2Proof.Machine.Pseudocode

/-- `LDA_imm()` (R87), after the opcode fetch. -/
def ldaImmHandler (s : State) : State :=
  let (v, s1) := fetchByte s
  deriveLoadFlags (s1.setA v)

/-- `LDA_zp()` (R88), after the opcode fetch. -/
def ldaZpHandler (s : State) : State :=
  let (zp, s1) := fetchByte s
  let (v, s2) := readByte (zeroPageAddr zp) s1
  deriveLoadFlags (s2.setA v)

/-- `LDA_zpx()` (R89), after the opcode fetch. -/
def ldaZpXHandler (s : State) : State :=
  let (zp, s1) := fetchByte s
  let s2 := charge 1 s1
  let (v, s3) := readByte (zeroPageAddr (zp + s1.x)) s2
  deriveLoadFlags (s3.setA v)

/-- `JSR()` (R95), after the opcode fetch. -/
def jsrHandler (s : State) : State :=
  let (t, s1) := fetchWord s
  let ret := s1.pc - 1#16
  let s2 := writeWord s1.sp ret s1
  let s3 := moveSpAfterCall s2
  charge 1 (s3.setPc t)

/-- `Unknown(op)` (R100), after the opcode fetch. -/
def unknownHandler (op : Byte) (s : State) : State := s.emitDiag op

/-- `Dispatch(op)` (R73). -/
def dispatch (op : Byte) (s : State) : State :=
  if op = 0xA9#8 then ldaImmHandler s
  else if op = 0xA5#8 then ldaZpHandler s
  else if op = 0xB5#8 then ldaZpXHandler s
  else if op = 0x20#8 then jsrHandler s
  else unknownHandler op s

/-- `Step()` (R72). -/
def fetchAndDispatch (s : State) : State :=
  let (op, s1) := fetchByte s
  dispatch op s1

end Sys2Proof.Machine.Pseudocode
end

