-- ==== Sys2Proof/Safety.lean ====
section
/-! DEFINITION. The terms the statements are made in: the invariant of the machine, the load-flag property, and what two states
must share to be told apart by no step. -/

namespace Sys2Proof.Machine

/-- The core is inside a run: an Execute has loaded `CYC` and the run condition holds (40_execute_cycle.md R70, R71). -/
abbrev State.InRun (s : State) : Prop := s.budgetLoaded = true ∧ 0 < s.cyc

/-- The core is idle (60_exceptions.md R118, R119): no Execute has loaded `CYC`, or the run condition has failed. -/
abbrev State.Idle (s : State) : Prop := s.budgetLoaded = false ∨ s.cyc ≤ 0

/-- The invariant: the memory is in its canonical form, and `CYC` is at least -5, the lowest an overrun can leave it
(10_state.md R20, 40_execute_cycle.md R76). -/
def State.Inv (s : State) : Prop := s.mem.wf ∧ -5 ≤ s.cyc

/-- `Z == (A == 0)` and `N == A[7]` (10_state.md R18). True from the first LDA on; not true of the reset state (C3). -/
def State.LoadFlagsAgree (s : State) : Prop := s.flagZ = (s.a == 0#8) ∧ s.flagN = s.a.getLsbD 7

/-- The bytes of `bytes` stand in `m` at `addr` and the addresses after it, modulo 65536. -/
def Memory.Holds (m : Memory) (addr : Word) (bytes : List Byte) : Prop :=
  match bytes with
  | [] => True
  | b :: rest => m.read addr = b ∧ Memory.Holds m (addr + 1#16) rest

/-- `s` with another record of diagnostics: the same architectural state (43_unknown_opcode.md R102). -/
def State.withDiags (s : State) (ds : List DiagEvent) : State := { s with diags := ds }

/-- Values for the elements that no instruction of the hardware reads or writes: `Y` and the flags `C`, `I`, `D`, `B`, `V`
(10_state.md R16, R17). `Z` and `N` are read by none either, but loads write them. -/
structure InertState where
  y : Byte
  c : Bool
  i : Bool
  d : Bool
  b : Bool
  v : Bool
  deriving DecidableEq, Repr

/-- `s` with its inert elements replaced. -/
def State.withInert (s : State) (e : InertState) : State :=
  { s with y := e.y, flagC := e.c, flagI := e.i, flagD := e.d, flagB := e.b, flagV := e.v }

/-- The outcome with `f` applied to its next state. -/
def mapNext (f : State → State) (o : Host.Outcome State Fault Refusal) : Host.Outcome State Fault Refusal :=
  match o with
  | .next s => .next (f s)
  | .fault r => .fault r
  | .refused r => .refused r

/-- The next state of an outcome, where there is one. -/
def nextOf (o : Host.Outcome State Fault Refusal) : Option State :=
  match o with
  | .next s => some s
  | .fault _ => none
  | .refused _ => none

/-- The cost in cycle-units the spec's table gives an instruction (40_execute_cycle.md R77, 70_reset_and_hazards.md R132). The
meanings do not read it: they charge through the primitives. -/
def tableCost (i : Instr) : Int :=
  match i with
  | .ldaImm _ => 2
  | .ldaZp _ => 3
  | .ldaZpX _ => 4
  | .jsr _ => 6
  | .undef _ => 1

/-- The byte a load instruction loads, in integer arithmetic (41_load.md R86 to R90); none for the other instructions. -/
def loadedByte (i : Instr) (s : State) : Option Byte :=
  match i with
  | .ldaImm imm => some imm
  | .ldaZp zp => some (s.mem.read (BitVec.ofNat 16 zp.toNat))
  | .ldaZpX zp => some (s.mem.read (BitVec.ofNat 16 ((zp.toNat + s.x.toNat) % 256)))
  | .jsr _ => none
  | .undef _ => none

/-- The state `n` steps later, where every one of them answers a next state. -/
def iterStep (n : Nat) (s : State) : Option State :=
  match n with
  | 0 => some s
  | k + 1 => (nextOf (step s)).bind (iterStep k)

/-- The diagnostics of a run over undefined opcodes: those of the `n` bytes from `pc` on, in step order (R102). -/
def diagsFrom (m : Memory) (pc : Word) (n : Nat) : List DiagEvent :=
  match n with
  | 0 => []
  | k + 1 => .decodeFail (m.read pc) :: diagsFrom m (pc + 1#16) k

end Sys2Proof.Machine
end

