-- ==== Sys2Proof/WellFormed.lean ====
section
/-! DEFINITION. Which instruction terms stand for an instruction of the hardware. -/

namespace Sys2Proof

/-- Every operand value is legal (30_encoding.md R56); the byte an `undef` carries is one of the 252 values without a handler
(43_unknown_opcode.md R101). -/
def Instr.wf (i : Instr) : Bool :=
  match i with
  | .ldaImm _ => true
  | .ldaZp _ => true
  | .ldaZpX _ => true
  | .jsr _ => true
  | .undef op => !isDefinedOpcode op

end Sys2Proof
end

