-- ==== Sys2Proof/Certificates/Slice0/Obligations.lean ====
section
/-! DEFINITION. The statements for the provers, from the numbered rules of spec/. No statement is about a program. -/

open Sys2Proof Sys2Proof.Machine

/-! ### Encoding -/

/-- A few words written out from the tables of 30_encoding.md R51 and R53, JSR's operand low byte first, the two last from
the undefined space. -/
def Obligations.SpecWordsDecode : Prop :=
  decode [0xA9, 0x84] = .ok (.ldaImm 0x84, []) ∧
  decode [0xA5, 0x42, 0x99] = .ok (.ldaZp 0x42, [0x99]) ∧
  decode [0xB5, 0x02] = .ok (.ldaZpX 0x02, []) ∧
  decode [0x20, 0x34, 0x12] = .ok (.jsr 0x1234, []) ∧
  decode [0xEA, 0xA9, 0x01] = .ok (.undef 0xEA, [0xA9, 0x01]) ∧
  decode [0x00] = .ok (.undef 0x00, [])

/-- 30_encoding.md R51: the three formats, for every operand byte and every byte that follows. -/
def Obligations.FormatsDecode : Prop :=
  (∀ (b : Byte) (rest : List Byte), decode (0xA9#8 :: b :: rest) = .ok (.ldaImm b, rest)) ∧
  (∀ (b : Byte) (rest : List Byte), decode (0xA5#8 :: b :: rest) = .ok (.ldaZp b, rest)) ∧
  (∀ (b : Byte) (rest : List Byte), decode (0xB5#8 :: b :: rest) = .ok (.ldaZpX b, rest)) ∧
  (∀ (t : Word) (rest : List Byte),
    decode (0x20#8 :: BitVec.ofNat 8 (t.toNat % 256) :: BitVec.ofNat 8 (t.toNat / 256) :: rest) = .ok (.jsr t, rest)) ∧
  (∀ (op : Byte) (rest : List Byte), op ≠ 0x20#8 → op ≠ 0xA5#8 → op ≠ 0xA9#8 → op ≠ 0xB5#8 →
    decode (op :: rest) = .ok (.undef op, rest))

/-- Decoding the bytes of a well-formed instruction gives it back, with whatever follows it left over: no operand bit is dropped
(30_encoding.md R51, R52, R53). -/
def Obligations.DecodeOfEncode : Prop :=
  ∀ (i : Instr) (rest : List Byte), i.wf = true → decode (encode i ++ rest) = .ok (i, rest)

/-- What the decoder accepts are exactly the encodings of well-formed instructions: each word has one meaning
(30_encoding.md R50, R53). -/
def Obligations.DecodeAcceptsOnlyEncodings : Prop :=
  ∀ (bytes rest : List Byte) (i : Instr), decode bytes = .ok (i, rest) → i.wf = true ∧ bytes = encode i ++ rest

/-! ### The step -/

/-- When the bytes at `PC` are those of a well-formed instruction and the core is inside a run, the step is `exec` of that
instruction; nothing is added around it, since a meaning consumes its own bytes. -/
def Obligations.StepRunsDecodedInstruction : Prop :=
  ∀ (i : Instr) (s : State), i.wf = true → s.InRun → s.mem.Holds s.pc (encode i) → step s = exec i s

/-- An idle core does nothing at a step: the model's reading of 60_exceptions.md R118, notes/assumptions/3.md. A core that no Execute has
started is idle whatever its `CYC` (R119, notes/assumptions/19.md). -/
def Obligations.IdleStepKeepsState : Prop :=
  ∀ s : State, s.Idle → step s = .next s

/-- 40_execute_cycle.md R73 and 30_encoding.md R57: exactly one of the five behaviours applies, by the opcode byte alone, and
it answers a next state. The states of those rules with `CYC > 0` are those of a run. -/
def Obligations.DispatchByOpcodeByte : Prop :=
  ∀ s : State, s.InRun →
    (step s =
      if s.mem.read s.pc = 0xA9#8 then exec (.ldaImm (s.mem.read (s.pc + 1#16))) s
      else if s.mem.read s.pc = 0xA5#8 then exec (.ldaZp (s.mem.read (s.pc + 1#16))) s
      else if s.mem.read s.pc = 0xB5#8 then exec (.ldaZpX (s.mem.read (s.pc + 1#16))) s
      else if s.mem.read s.pc = 0x20#8 then exec (.jsr (s.mem.readWord (s.pc + 1#16))) s
      else exec (.undef (s.mem.read s.pc)) s) ∧
    ∃ t : State, step s = .next t

/-- The machine that decodes first agrees, in every state of a run, with the step as the spec's pseudocode writes it, each handler
fetching its own operand bytes (40_execute_cycle.md R72, R73 and the handlers of 41_load.md, 42_jsr.md, 43_unknown_opcode.md). That
both leave `SP` after JSR is the decision D2 of the spec (notes/assumptions/5.md), and both record the diagnostic as the model does
(notes/assumptions/4.md). -/
def Obligations.StepRefinesPseudocode : Prop :=
  ∀ s : State, s.InRun → step s = .next (Pseudocode.fetchAndDispatch s)

/-! ### The loads -/

/-- 41_load.md R85: the two flags as functions of `A`, nothing else touched, the three outcomes of the table, and that every load
ends in it. -/
def Obligations.LoadFlagsDerived : Prop :=
  (∀ s : State,
    deriveLoadFlags s = { s with flagZ := decide (s.a.toNat = 0), flagN := decide (128 ≤ s.a.toNat) } ∧
    (deriveLoadFlags s).flagN = s.a.getLsbD 7 ∧
    ¬ ((deriveLoadFlags s).flagZ = true ∧ (deriveLoadFlags s).flagN = true)) ∧
  (∀ (i : Instr) (s : State) (v : Byte), loadedByte i s = some v →
    ∃ u : State, u.a = v ∧ exec i s = .next (deriveLoadFlags u))

/-- 41_load.md R87: the whole next state, so the frame too; as the meaning and as the step from the bytes `A9 imm8`. -/
def Obligations.LdaImmediateResult : Prop :=
  (∀ (v : Byte) (s : State), exec (.ldaImm v) s =
    .next { s with a := v, flagZ := v == 0#8, flagN := v.getLsbD 7, pc := s.pc + 2#16, cyc := s.cyc - 2 }) ∧
  (∀ (v : Byte) (s : State), s.InRun → s.mem.read s.pc = 0xA9#8 → s.mem.read (s.pc + 1#16) = v → step s =
    .next { s with a := v, flagZ := v == 0#8, flagN := v.getLsbD 7, pc := s.pc + 2#16, cyc := s.cyc - 2 })

/-- 41_load.md R88: the whole next state, so the frame too; as the meaning and as the step from the bytes `A5 zp8`. -/
def Obligations.LdaZeroPageResult : Prop :=
  (∀ (zp v : Byte) (s : State), s.mem.read (BitVec.ofNat 16 zp.toNat) = v → exec (.ldaZp zp) s =
    .next { s with a := v, flagZ := v == 0#8, flagN := v.getLsbD 7, pc := s.pc + 2#16, cyc := s.cyc - 3 }) ∧
  (∀ (zp v : Byte) (s : State), s.InRun → s.mem.read s.pc = 0xA5#8 → s.mem.read (s.pc + 1#16) = zp →
    s.mem.read (BitVec.ofNat 16 zp.toNat) = v → step s =
    .next { s with a := v, flagZ := v == 0#8, flagN := v.getLsbD 7, pc := s.pc + 2#16, cyc := s.cyc - 3 })

/-- 41_load.md R89: the whole next state, so the frame too, the index sum modulo 256; as the meaning and as the step from the
bytes `B5 zp8`. -/
def Obligations.LdaZeroPageXResult : Prop :=
  (∀ (zp v : Byte) (s : State), s.mem.read (BitVec.ofNat 16 ((zp.toNat + s.x.toNat) % 256)) = v → exec (.ldaZpX zp) s =
    .next { s with a := v, flagZ := v == 0#8, flagN := v.getLsbD 7, pc := s.pc + 2#16, cyc := s.cyc - 4 }) ∧
  (∀ (zp v : Byte) (s : State), s.InRun → s.mem.read s.pc = 0xB5#8 → s.mem.read (s.pc + 1#16) = zp →
    s.mem.read (BitVec.ofNat 16 ((zp.toNat + s.x.toNat) % 256)) = v → step s =
    .next { s with a := v, flagZ := v == 0#8, flagN := v.getLsbD 7, pc := s.pc + 2#16, cyc := s.cyc - 4 })

/-- 41_load.md R86: what the three loads (LDA immediate, LDA zero-page, LDA zero-page,X) have in common, their frame: `A` takes the
byte unchanged, `PC` ends two bytes on; `SP`, `X`, `Y`, the five other flags, every byte of memory and the diagnostics stay; and
no flag influences the result. -/
def Obligations.LoadsFrame : Prop :=
  ∀ (i : Instr) (s : State) (v : Byte), loadedByte i s = some v →
    ∃ t : State, exec i s = .next t ∧
      t.a = v ∧ t.flagZ = (v == 0#8) ∧ t.flagN = v.getLsbD 7 ∧ t.pc = s.pc + 2#16 ∧
      t.sp = s.sp ∧ t.x = s.x ∧ t.y = s.y ∧ t.budgetLoaded = s.budgetLoaded ∧
      t.flagC = s.flagC ∧ t.flagI = s.flagI ∧ t.flagD = s.flagD ∧ t.flagB = s.flagB ∧ t.flagV = s.flagV ∧
      (∀ addr : Word, t.mem.read addr = s.mem.read addr) ∧ t.diags = s.diags ∧
      (∀ (e : InertState) (z n : Bool), exec i ((s.withInert e).setLoadFlags z n) = .next (t.withInert e))

/-- A load's data read never leaves the zero page (20_memory.md R30, 41_load.md R91): two memories that agree there are told apart
by no load. -/
def Obligations.LoadsReadOnlyZeroPage : Prop :=
  ∀ (i : Instr) (s t : State) (m : Memory) (v : Byte), loadedByte i s = some v →
    (∀ addr : Word, addr.toNat < 256 → m.read addr = s.mem.read addr) → exec i s = .next t →
    exec i (s.setMem m) = .next (t.setMem m)

/-! ### Jump to subroutine -/

/-- 42_jsr.md section R95: the whole next state of JSR. That `SP` stays is the decision D2 of the spec (`JSR_SP_DELTA` 0,
notes/assumptions/5.md). -/
def Obligations.JsrResult : Prop :=
  (∀ (target : Word) (s : State), exec (.jsr target) s =
    .next { s with pc := target, mem := s.mem.writeWord s.sp (s.pc + 2#16), cyc := s.cyc - 6 }) ∧
  (∀ (target : Word) (s : State), s.InRun → s.mem.read s.pc = 0x20#8 →
    (s.mem.read (s.pc + 1#16)).toNat = target.toNat % 256 → (s.mem.read (s.pc + 2#16)).toNat = target.toNat / 256 → step s =
    .next { s with pc := target, mem := s.mem.writeWord s.sp (s.pc + 2#16), cyc := s.cyc - 6 })

/-- 42_jsr.md R96: the word written at `SP` is the address of the JSR opcode plus 2, little-endian, and the instruction that
follows the JSR stands at that word plus 1. -/
def Obligations.JsrReturnWord : Prop :=
  ∀ (target : Word) (s : State), ∃ t : State, exec (.jsr target) s = .next t ∧ t.pc = target ∧
    (t.mem.read s.sp).toNat = (s.pc.toNat + 2) % 65536 % 256 ∧
    (t.mem.read (s.sp + 1#16)).toNat = (s.pc.toNat + 2) % 65536 / 256 ∧
    t.mem.readWord s.sp + 1#16 = s.pc + BitVec.ofNat 16 (encode (.jsr target)).length

/-- The frame of JSR (42_jsr.md section R95): registers, flags and diagnostics stay, and every byte of memory outside the two at the
stored address, `SP` and `SP + 1`. That `SP` stays is the decision D2 of the spec (notes/assumptions/5.md). -/
def Obligations.JsrFrame : Prop :=
  ∀ (target : Word) (s : State), ∃ t : State, exec (.jsr target) s = .next t ∧
    t.a = s.a ∧ t.x = s.x ∧ t.y = s.y ∧ t.sp = s.sp ∧ t.budgetLoaded = s.budgetLoaded ∧
    t.flagC = s.flagC ∧ t.flagZ = s.flagZ ∧ t.flagI = s.flagI ∧ t.flagD = s.flagD ∧ t.flagB = s.flagB ∧
    t.flagV = s.flagV ∧ t.flagN = s.flagN ∧ t.diags = s.diags ∧
    (∀ addr : Word, addr ≠ s.sp → addr ≠ s.sp + 1#16 → t.mem.read addr = s.mem.read addr)

/-- Return words do not nest (70_reset_and_hazards.md R127, an inference of the spec from D2): of two JSRs in a row the second
one's word stands at `SP`, and outside its two bytes memory is as before both. -/
def Obligations.SecondCallReplacesReturnWord : Prop :=
  ∀ (first second : Word) (s t u : State), exec (.jsr first) s = .next t → exec (.jsr second) t = .next u →
    u.mem.readWord s.sp = first + 2#16 ∧
    ∀ addr : Word, addr ≠ s.sp → addr ≠ s.sp + 1#16 → u.mem.read addr = s.mem.read addr

/-- A fetch sees the bytes a JSR has just written (20_memory.md R46, an inference of the spec): a JSR whose target is `SP` executes
its own return word next. -/
def Obligations.FetchSeesCallWrite : Prop :=
  ∀ (target : Word) (s t : State), exec (.jsr target) s = .next t → target = s.sp →
    fetchInstr t.mem t.pc = decodeBytes (lowByte (s.pc + 2#16)) (highByte (s.pc + 2#16)) (s.mem.read (s.sp + 2#16))

/-! ### Undefined opcodes and diagnostics -/

/-- 43_unknown_opcode.md section R100: the whole next state of an undefined opcode, so its frame: `PC` and `CYC`, and the recorded
diagnostic, which is the model's own (D10, D20; notes/assumptions/4.md). -/
def Obligations.UndefinedOpcodeResult : Prop :=
  (∀ (op : Byte) (s : State), exec (.undef op) s =
    .next { s with pc := s.pc + 1#16, cyc := s.cyc - 1, diags := s.diags ++ [.decodeFail op] }) ∧
  (∀ (op : Byte) (s : State), s.InRun → s.mem.read s.pc = op →
    op ≠ 0x20#8 → op ≠ 0xA5#8 → op ≠ 0xA9#8 → op ≠ 0xB5#8 → step s =
    .next { s with pc := s.pc + 1#16, cyc := s.cyc - 1, diags := s.diags ++ [.decodeFail op] })

/-- A step of a run emits one diagnostic exactly when its opcode byte is undefined, and none otherwise (60_exceptions.md section 1).
The record is the model's own (D10, notes/assumptions/4.md). -/
def Obligations.OnlyUndefinedOpcodesReport : Prop :=
  ∀ s t : State, s.InRun → step s = .next t →
    t.diags = if s.mem.read s.pc ∈ [0x20#8, 0xA5#8, 0xA9#8, 0xB5#8] then s.diags
      else s.diags ++ [.decodeFail (s.mem.read s.pc)]

/-- Nothing reads the diagnostics (43_unknown_opcode.md section R102): with any other record the step has the same architectural
effect and adds the same events. -/
def Obligations.DiagnosticsNeverRead : Prop :=
  ∀ s : State, ∃ added : List DiagEvent, ∀ ds : List DiagEvent,
    step (s.withDiags ds) = mapNext (fun t => t.withDiags (ds ++ added)) (step s)

/-- A run over memory in which every byte is an undefined opcode (43_unknown_opcode.md section R100, corner case (a), there for
all-zero memory): `n` steps for a budget of `n`, one byte, one cycle-unit and one diagnostic each, and nothing else of the
state of R10 changes. The corner case has `n >= 1`; that `n = 0` runs no step is the decision D6 of the spec (notes/assumptions/17.md).
The record of diagnostics (D10, notes/assumptions/4.md) and the mark `budgetLoaded`, which Execute sets (notes/assumptions/19.md), are
the model's own. -/
def Obligations.UndefinedRunAdvancesByBudget : Prop :=
  ∀ (n : Nat) (s : State), (∀ addr : Word, s.mem.read addr ∉ [0x20#8, 0xA5#8, 0xA9#8, 0xB5#8]) →
    execute n s = .next { s with
      pc := s.pc + BitVec.ofNat 16 n, cyc := 0, budgetLoaded := true, diags := s.diags ++ diagsFrom s.mem s.pc n }

/-! ### Whole-machine rules -/

/-- 10_state.md R16: no step reads or writes `Y` (another `Y` gives the same step with that `Y`), it is 0 after reset, and of the
host's operations only Construct, which makes a new core, Reset and a Preset of `Y` change it. -/
def Obligations.YNeverReadNorWritten : Prop :=
  (∀ (v : Byte) (s : State), step { s with y := v } = mapNext (fun t => { t with y := v }) (step s)) ∧
  (∀ s : State, (resetAll s).y = 0#8) ∧
  (∀ (op : HostOp) (s t : State), (∀ u, op ≠ .construct u) → op ≠ .reset → (∀ v, op ≠ .preset (.y v)) →
    hostStep op s = .next t → t.y = s.y)

/-- `C`, `I`, `D`, `B` and `V` are inert, and so is `Y`: no step reads or writes them. No step reads `Z` or `N` either: with other values
in them a load's step is the same step, which derives both anew, and any other step (JSR, an undefined opcode, an idle core) is the
same with those values kept (10_state.md section 4; 60_exceptions.md section 2). -/
def Obligations.FlagsNeverRead : Prop :=
  ∀ s : State,
    (∀ e : InertState, step (s.withInert e) = mapNext (fun t => t.withInert e) (step s)) ∧
    (∀ z n : Bool, s.InRun → s.mem.read s.pc ∈ [0xA5#8, 0xA9#8, 0xB5#8] → step (s.setLoadFlags z n) = step s) ∧
    (∀ z n : Bool, s.Idle ∨ s.mem.read s.pc ∉ [0xA5#8, 0xA9#8, 0xB5#8] →
      step (s.setLoadFlags z n) = mapNext (fun t => t.setLoadFlags z n) (step s))

/-- 10_state.md R14: `A` is written by the three loads and by Reset (and by the host's Preset of it), and no instruction reads it as an
operand: with another `A` a load's step is the same step, any other step is the same with that `A` kept. -/
def Obligations.AccumulatorWrittenByLoadsOnly : Prop :=
  (∀ (v : Byte) (s : State), s.InRun → s.mem.read s.pc ∈ [0xA5#8, 0xA9#8, 0xB5#8] → step { s with a := v } = step s) ∧
  (∀ (v : Byte) (s : State), s.mem.read s.pc ∉ [0xA5#8, 0xA9#8, 0xB5#8] →
    step { s with a := v } = mapNext (fun t => { t with a := v }) (step s)) ∧
  (∀ s : State, (resetAll s).a = 0#8)

/-- 10_state.md R15: `X` is read by LDA zero-page,X alone, as an unsigned addend; no instruction writes it; it is 0 after Reset, and of
the host's operations only Construct, which makes a new core, Reset and a Preset of `X` change it. -/
def Obligations.XReadByIndexedLoadOnly : Prop :=
  (∀ (v : Byte) (s : State), s.mem.read s.pc ≠ 0xB5#8 →
    step { s with x := v } = mapNext (fun t => { t with x := v }) (step s)) ∧
  (∀ (zp : Byte) (s : State), ∃ t : State, exec (.ldaZpX zp) s = .next t ∧
    t.a = s.mem.read (BitVec.ofNat 16 ((zp.toNat + s.x.toNat) % 256)) ∧ t.x = s.x) ∧
  (∀ s : State, (resetAll s).x = 0#8) ∧
  (∀ (op : HostOp) (s t : State), (∀ u, op ≠ .construct u) → op ≠ .reset → (∀ v, op ≠ .preset (.x v)) →
    hostStep op s = .next t → t.x = s.x)

/-- Control flow (10_state.md section 2, 42_jsr.md R98): a step of a run leaves `PC` at the target word of a JSR, and otherwise at the
address after the instruction's bytes, 2 on for a load and 1 on for an undefined opcode. -/
def Obligations.PcSequentialOrJsrTarget : Prop :=
  ∀ s t : State, s.InRun → step s = .next t →
    t.pc = if s.mem.read s.pc = 0x20#8 then s.mem.readWord (s.pc + 1#16)
      else if s.mem.read s.pc ∈ [0xA5#8, 0xA9#8, 0xB5#8] then s.pc + 2#16
      else s.pc + 1#16

/-- No instruction writes `X` or `SP` (10_state.md section 3); only JSR writes memory, and only at `SP` and `SP + 1`. That JSR leaves
`SP` is the decision D2 of the spec (notes/assumptions/5.md). -/
def Obligations.StepKeepsIndexAndStackRegisters : Prop :=
  ∀ s t : State, step s = .next t →
    t.x = s.x ∧ t.sp = s.sp ∧ (s.mem.read s.pc ≠ 0x20#8 → t.mem = s.mem) ∧
    (∀ addr : Word, addr ≠ s.sp → addr ≠ s.sp + 1#16 → t.mem.read addr = s.mem.read addr)

/-- The invariant of the machine is kept by every step: memory in canonical form, and `CYC` at least -5 (10_state.md section 5;
notes/assumptions/11.md for the form). -/
def Obligations.StepKeepsInvariant : Prop :=
  ∀ s t : State, s.Inv → step s = .next t → t.Inv

/-- The reset state meets the invariant. -/
def Obligations.ResetMeetsInvariant : Prop := State.reset.Inv

/-- The load-flag property of 10_state.md section 4 (R18, whose exact content is the spec's decision D15): a load establishes it,
every step keeps it, and the reset state does not have it (C3). -/
def Obligations.LoadFlagsAgreementKept : Prop :=
  (∀ (i : Instr) (s t : State) (v : Byte), loadedByte i s = some v → exec i s = .next t → t.LoadFlagsAgree) ∧
  (∀ s t : State, s.LoadFlagsAgree → step s = .next t → t.LoadFlagsAgree) ∧
  ¬ State.reset.LoadFlagsAgree

/-- Two canonical memories that read alike everywhere are equal lists: the form represents the array of 10_state.md section 6
(notes/assumptions/11.md). -/
def Obligations.CanonicalMemoryIsUnique : Prop :=
  ∀ m₁ m₂ : Memory, m₁.wf → m₂.wf → (∀ addr : Word, m₁.read addr = m₂.read addr) → m₁ = m₂

/-! ### Primitives -/

/-- The fetch and read primitives (40_execute_cycle.md section 1): what they return, the `PC` they leave, what they charge; and
that a word fetch is two byte fetches, low byte first. The wrap of `PC` is the spec's decision D3 (notes/assumptions/6.md). -/
def Obligations.FetchPrimitives : Prop :=
  ∀ s : State,
    fetchByte s = (s.mem.read s.pc, { s with pc := s.pc + 1#16, cyc := s.cyc - 1 }) ∧
    ((fetchWord s).1.toNat =
      (fetchByte s).1.toNat + 256 * (fetchByte (fetchByte s).2).1.toNat) ∧
    (fetchWord s).2 = (fetchByte (fetchByte s).2).2 ∧
    (∀ addr : Word, readByte addr s = (s.mem.read addr, { s with cyc := s.cyc - 1 })) ∧
    (∀ n : Int, charge n s = { s with cyc := s.cyc - n })

/-- 40_execute_cycle.md R68 and 20_memory.md R37: a word is written low byte first, at the address and the next one, for 2
cycle-units, and nothing else changes; the JSR operand in the instruction stream has the same order. -/
def Obligations.WordsAreLittleEndian : Prop :=
  (∀ (addr v : Word) (s : State),
    ((writeWord addr v s).mem.read addr).toNat = v.toNat % 256 ∧
    ((writeWord addr v s).mem.read (addr + 1#16)).toNat = v.toNat / 256 ∧
    (∀ other : Word, other ≠ addr → other ≠ addr + 1#16 → (writeWord addr v s).mem.read other = s.mem.read other) ∧
    writeWord addr v s = { s with mem := (writeWord addr v s).mem, cyc := s.cyc - 2 }) ∧
  (∀ lo hi : Byte, decodeBytes 0x20#8 lo hi = .jsr (BitVec.ofNat 16 (hi.toNat * 256 + lo.toNat)))

/-! ### Cycle-units and runs -/

/-- 40_execute_cycle.md R78 and 70_reset_and_hazards.md R132: the length and the exact cost of each instruction, whatever its
operands and the state. -/
def Obligations.CostsAreConstant : Prop :=
  (∀ imm : Byte, (encode (.ldaImm imm)).length = 2 ∧ tableCost (.ldaImm imm) = 2) ∧
  (∀ zp : Byte, (encode (.ldaZp zp)).length = 2 ∧ tableCost (.ldaZp zp) = 3) ∧
  (∀ zp : Byte, (encode (.ldaZpX zp)).length = 2 ∧ tableCost (.ldaZpX zp) = 4) ∧
  (∀ target : Word, (encode (.jsr target)).length = 3 ∧ tableCost (.jsr target) = 6) ∧
  (∀ op : Byte, (encode (.undef op)).length = 1 ∧ tableCost (.undef op) = 1) ∧
  (∀ (i : Instr) (s : State), ∃ t : State, exec i s = .next t ∧ t.cyc = s.cyc - tableCost i)

/-- Every step of a run lowers `CYC` by at least 1 and at most 6 (40_execute_cycle.md section 2, an inference of the spec from
R73). -/
def Obligations.StepLowersCycOneToSix : Prop :=
  ∀ s : State, s.InRun → ∃ t : State, step s = .next t ∧ 1 ≤ s.cyc - t.cyc ∧ s.cyc - t.cyc ≤ 6

/-- 40_execute_cycle.md R75: an instruction that costs more than the budget left executes fully, `CYC` becomes the budget less the
cost, and the loop then halts. -/
def Obligations.OverrunCompletesThenHalts : Prop :=
  ∀ (i : Instr) (s : State), i.wf = true → s.mem.Holds s.pc (encode i) → s.InRun → s.cyc < tableCost i →
    ∃ t : State, exec i s = .next t ∧ step s = .next t ∧ t.cyc = s.cyc - tableCost i ∧ t.cyc ≤ 0 ∧
      ∀ fuel : Nat, runLoop (fuel + 1) s = .next t

/-- The end of a run (40_execute_cycle.md sections 2 and 4, R70 and R76 with the decisions D6 and D14): Execute ends at the first
instruction boundary with `CYC <= 0`, after as many steps as that takes; `CYC` then lies between -5 and 0 for a budget of at least
1; a budget of zero or less runs no step (notes/assumptions/17.md). The mark `budgetLoaded`, which Execute sets, is the model's own
(notes/assumptions/19.md). -/
def Obligations.ExecuteStopsAtFirstIdleBoundary : Prop :=
  ∀ (budget : Int) (s : State), ∃ (t : State) (k : Nat), execute budget s = .next t ∧
    iterStep k { s with cyc := budget, budgetLoaded := true } = some t ∧ t.cyc ≤ 0 ∧
    (∀ j < k, ∃ u : State, iterStep j { s with cyc := budget, budgetLoaded := true } = some u ∧ 0 < u.cyc) ∧
    (1 ≤ budget → -5 ≤ t.cyc) ∧
    (budget ≤ 0 → k = 0 ∧ t = { s with cyc := budget, budgetLoaded := true })

/-- Each Execute loads `CYC` afresh (40_execute_cycle.md section 6, R81 with the decision D22): what an earlier run left in it has no
influence. -/
def Obligations.ExecuteLoadsCycAfresh : Prop :=
  ∀ (budget left : Int) (s : State), execute budget { s with cyc := left } = execute budget s

/-! ### Reset and the host -/

/-- The reset values (10_state.md section 8): those the document gives, and `CYC` 0, which is the decision D7 of the spec
(notes/assumptions/8.md). The state before reset has no influence. That Reset also empties the record of diagnostics
(notes/assumptions/15.md) and leaves no budget loaded (notes/assumptions/19.md) is the model's own choice. -/
def Obligations.ResetValues : Prop :=
  ∀ s : State, (resetAll s) = State.reset ∧
    State.reset.pc = 0xFFFC#16 ∧ State.reset.sp = 0x0100#16 ∧ State.reset.a = 0#8 ∧ State.reset.x = 0#8 ∧ State.reset.y = 0#8 ∧
    State.reset.flagC = false ∧ State.reset.flagZ = false ∧ State.reset.flagI = false ∧ State.reset.flagD = false ∧
    State.reset.flagB = false ∧ State.reset.flagV = false ∧ State.reset.flagN = false ∧ State.reset.cyc = 0 ∧
    State.reset.budgetLoaded = false ∧ State.reset.diags = [] ∧
    (∀ addr : Word, State.reset.mem.read addr = 0#8) ∧ Sys2Proof.core.reset = State.reset

/-- 20_memory.md R32 and 70_reset_and_hazards.md R122: Reset sets every byte of memory to 0, whatever was poked before, with no
error condition. -/
def Obligations.ResetErasesMemory : Prop :=
  ∀ s : State, s.Idle → ∃ t : State, hostStep .reset s = .next t ∧ ∀ addr : Word, t.mem.read addr = 0#8

/-- 70_reset_and_hazards.md R121: reset reads no vector; the first step of the first run executes the bytes at 0xFFFC, whatever
memory and budget the host then gives, the budget loaded as Execute loads it (notes/assumptions/19.md). -/
def Obligations.ResetReadsNoVector : Prop :=
  (∀ s : State, (resetAll s).pc = 0xFFFC#16) ∧
  (∀ (s : State) (m : Memory) (budget : Int), 0 < budget →
    step { resetAll s with mem := m, cyc := budget, budgetLoaded := true } =
      exec (decodeBytes (m.read 0xFFFC#16) (m.read 0xFFFD#16) (m.read 0xFFFE#16))
        { resetAll s with mem := m, cyc := budget, budgetLoaded := true })

/-- Poke and Preset (60_exceptions.md section 8; Preset is the decision D9 of the spec): an idle core takes exactly the one byte,
register or flag, and nothing is charged. -/
def Obligations.PokeAndPresetWriteOneThing : Prop :=
  ∀ s : State, s.Idle →
    (∀ (addr : Word) (v : Byte), ∃ m : Memory, hostStep (.poke addr v) s = .next { s with mem := m } ∧ m.read addr = v ∧
      ∀ other : Word, other ≠ addr → m.read other = s.mem.read other) ∧
    (∀ v : Word, hostStep (.preset (.pc v)) s = .next { s with pc := v }) ∧
    (∀ v : Word, hostStep (.preset (.sp v)) s = .next { s with sp := v }) ∧
    (∀ v : Byte, hostStep (.preset (.a v)) s = .next { s with a := v }) ∧
    (∀ v : Byte, hostStep (.preset (.x v)) s = .next { s with x := v }) ∧
    (∀ v : Byte, hostStep (.preset (.y v)) s = .next { s with y := v }) ∧
    (∀ v : Bool, hostStep (.preset (.flag .carry v)) s = .next { s with flagC := v }) ∧
    (∀ v : Bool, hostStep (.preset (.flag .zero v)) s = .next { s with flagZ := v }) ∧
    (∀ v : Bool, hostStep (.preset (.flag .interruptDisable v)) s = .next { s with flagI := v }) ∧
    (∀ v : Bool, hostStep (.preset (.flag .decimalMode v)) s = .next { s with flagD := v }) ∧
    (∀ v : Bool, hostStep (.preset (.flag .brk v)) s = .next { s with flagB := v }) ∧
    (∀ v : Bool, hostStep (.preset (.flag .overflow v)) s = .next { s with flagV := v }) ∧
    (∀ v : Bool, hostStep (.preset (.flag .negative v)) s = .next { s with flagN := v })

/-- Construct (60_exceptions.md section 8; 93_implementation_defined.md I14): whatever the unspecified state, each element of it open,
the new core is idle, `CYC` above 0 included, so a step changes nothing and the first Reset is done. That no budget is loaded and the
record of diagnostics empty is the model's own choice (notes/assumptions/19.md). -/
def Obligations.ConstructedCoreIsIdleUntilReset : Prop :=
  ∀ u s : State, s.Idle → ∃ t : State, hostStep (.construct u) s = .next t ∧
    t.pc = u.pc ∧ t.sp = u.sp ∧ t.a = u.a ∧ t.x = u.x ∧ t.y = u.y ∧
    t.flagC = u.flagC ∧ t.flagZ = u.flagZ ∧ t.flagI = u.flagI ∧ t.flagD = u.flagD ∧ t.flagB = u.flagB ∧
    t.flagV = u.flagV ∧ t.flagN = u.flagN ∧ t.cyc = u.cyc ∧
    (∀ addr : Word, t.mem.read addr = u.mem.read addr) ∧ t.mem.wf ∧ t.diags = [] ∧
    t.Idle ∧ step t = .next t ∧ hostStep .reset t = .next State.reset

/-- Every host operation on an idle core completes, leaves it idle, and keeps the canonical form of memory (60_exceptions.md
sections 7 and 8). -/
def Obligations.HostOperationsEndIdle : Prop :=
  ∀ (op : HostOp) (s : State), s.Idle → s.mem.wf →
    ∃ t : State, hostStep op s = .next t ∧ t.Idle ∧ t.mem.wf

/-- During a run a host operation is refused by name: the model's form of a state the spec gives no meaning (93_implementation_defined.md
I11, notes/assumptions/10.md). -/
def Obligations.HostRefusedDuringRun : Prop :=
  ∀ (op : HostOp) (s : State), s.InRun → hostStep op s = .refused .hostActsDuringRun
end

