-- ==== Sys2Proof/Laws/Memory.lean ====
section
/-! SUPPORT. The laws of the memory operations: a read after a write, that a write leaves every other address alone (on every
list, canonical or not), and that every operation keeps the canonical form. -/

namespace Sys2Proof.Machine

variable (m : Memory) (k j : Nat) (v : Byte)

/-! ### The list of cells -/

theorem Memory.without_cons (c : Host.Cell) (m : Memory) :
    Memory.without (c :: m) k = if c.1 = k then Memory.without m k else c :: Memory.without m k := by
  by_cases h : c.1 = k <;> simp [Memory.without, h]

theorem Memory.mem_without (c : Host.Cell) : c ∈ m.without k ↔ c ∈ m ∧ c.1 ≠ k := by
  simp [Memory.without]

theorem Memory.lookup_without_same : (m.without k).lookup k = Config.unlistedByte := by
  induction m with
  | nil => rfl
  | cons c rest ih =>
    by_cases h : c.1 = k
    · rw [Memory.without_cons, if_pos h]; exact ih
    · rw [Memory.without_cons, if_neg h]; simpa [Memory.lookup, h] using ih

theorem Memory.lookup_without_ne (h : j ≠ k) : (m.without k).lookup j = m.lookup j := by
  induction m with
  | nil => rfl
  | cons c rest ih =>
    by_cases hc : c.1 = k
    · have hj : ¬ c.1 = j := fun e => h (e.symm.trans hc)
      rw [Memory.without_cons, if_pos hc]; simpa [Memory.lookup, hj] using ih
    · rw [Memory.without_cons, if_neg hc]; simp [Memory.lookup, ih]

theorem Memory.lookup_place_same (h : ∀ c ∈ m, c.1 ≠ k) : (m.place k v).lookup k = v := by
  induction m with
  | nil => simp [Memory.place, Memory.lookup]
  | cons c rest ih =>
    have hc : ¬ c.1 = k := h c (by simp)
    by_cases hlt : k < c.1
    · simp [Memory.place, Memory.lookup, hlt]
    · simpa [Memory.place, Memory.lookup, hlt, hc] using ih fun d hd => h d (by simp [hd])

theorem Memory.lookup_place_ne (h : j ≠ k) : (m.place k v).lookup j = m.lookup j := by
  have hk : ¬ k = j := fun e => h e.symm
  induction m with
  | nil => simp [Memory.place, Memory.lookup, hk]
  | cons c rest ih =>
    by_cases hlt : k < c.1
    · simp [Memory.place, Memory.lookup, hlt, hk]
    · simp [Memory.place, Memory.lookup, hlt, ih]

theorem Memory.mem_place (c : Host.Cell) : c ∈ m.place k v ↔ c = (k, v) ∨ c ∈ m := by
  induction m with
  | nil => simp [Memory.place]
  | cons d rest ih =>
    by_cases hlt : k < d.1
    · simp [Memory.place, hlt]
    · simp [Memory.place, hlt, ih]; tauto

/-! ### Reads and writes of a byte -/

variable (addr other : Word)

/-- A byte written is the byte later read (20_memory.md R31, R34). -/
@[simp] theorem Memory.read_write_same : (m.write addr v).read addr = v := by
  unfold Memory.write Memory.read
  split
  · next h => rw [Memory.lookup_without_same, h]
  · exact Memory.lookup_place_same _ _ _ fun c hc => ((Memory.mem_without m _ c).1 hc).2

/-- A write leaves every other address alone (20_memory.md R34). -/
theorem Memory.read_write_ne (h : other ≠ addr) : (m.write addr v).read other = m.read other := by
  have hn : other.toNat ≠ addr.toNat := fun e => h (BitVec.eq_of_toNat_eq e)
  unfold Memory.write Memory.read
  split
  · exact Memory.lookup_without_ne _ _ _ hn
  · rw [Memory.lookup_place_ne _ _ _ _ hn, Memory.lookup_without_ne _ _ _ hn]

/-- Every read after a write of one byte. -/
theorem Memory.read_write : (m.write addr v).read other = if other = addr then v else m.read other := by
  split
  · next h => subst h; exact Memory.read_write_same m v other
  · next h => exact Memory.read_write_ne m v addr other h

/-! ### Reads and writes of a word -/

/-- Every byte read after a write of a word: little-endian, and nothing but the two bytes (20_memory.md R35, R37). -/
theorem Memory.read_writeWord (w : Word) : (m.writeWord addr w).read other =
    if other = addr then lowByte w else if other = addr + 1#16 then highByte w else m.read other := by
  unfold Memory.writeWord
  rw [Memory.read_write, Memory.read_write]
  by_cases h : other = addr
  · subst h; simp
  · simp [h]

/-- `(hi, lo)` of a word's own two bytes is the word. -/
@[simp] theorem joinWord_low_high (w : Word) : joinWord (lowByte w) (highByte w) = w := by
  apply BitVec.eq_of_getLsbD_eq
  intro i hi
  simp only [joinWord, lowByte, highByte, BitVec.getLsbD_append, BitVec.getLsbD_setWidth, BitVec.getLsbD_ushiftRight]
  split
  · simp [*]
  · next h =>
    have h8 : i - 8 < 8 := by omega
    have : 8 + (i - 8) = i := by omega
    simp [h8, this]

@[simp] theorem lowByte_joinWord (lo hi : Byte) : lowByte (joinWord lo hi) = lo := by
  apply BitVec.eq_of_getLsbD_eq
  intro i h
  rw [lowByte, joinWord, BitVec.getLsbD_setWidth, BitVec.getLsbD_append]
  simp [h]

@[simp] theorem highByte_joinWord (lo hi : Byte) : highByte (joinWord lo hi) = hi := by
  apply BitVec.eq_of_getLsbD_eq
  intro i h
  rw [highByte, joinWord, BitVec.getLsbD_setWidth, BitVec.getLsbD_ushiftRight, BitVec.getLsbD_append]
  simp [h]

/-- A word written at an address is the word later read there (20_memory.md R35 to R37). -/
@[simp] theorem Memory.readWord_writeWord (w : Word) : (m.writeWord addr w).readWord addr = w := by
  simp [Memory.readWord, Memory.read_writeWord]

/-! ### The canonical form -/

/-- Every listed address of a canonical memory is in range (20_memory.md R40). -/
theorem Memory.addr_lt_of_wf (h : m.wf) {c : Host.Cell} (hc : c ∈ m) : c.1 < 65536 := (h.2 c hc).1

theorem Memory.wf_nil : Memory.wf [] := by simp [Memory.wf]

theorem Memory.wf_without (h : m.wf) : (m.without k).wf :=
  ⟨h.1.filter _, fun c hc => h.2 c ((Memory.mem_without m k c).1 hc).1⟩

theorem Memory.wf_place (h : m.wf) (hk : k < Config.memSize) (hv : v ≠ Config.unlistedByte) (hm : ∀ c ∈ m, c.1 ≠ k) :
    (m.place k v).wf := by
  refine ⟨?_, fun c hc => ?_⟩
  · induction m with
    | nil => simp [Memory.place]
    | cons c rest ih =>
      obtain ⟨hp, ha⟩ := h
      rw [List.pairwise_cons] at hp
      by_cases hlt : k < c.1
      · simp only [Memory.place, hlt, if_true, List.pairwise_cons]
        refine ⟨fun d hd => ?_, hp.1, hp.2⟩
        rcases List.mem_cons.1 hd with rfl | hd
        · exact hlt
        · exact hlt.trans (hp.1 d hd)
      · have hck : c.1 < k := lt_of_le_of_ne (not_lt.1 hlt) (hm c (by simp))
        simp only [Memory.place, hlt, if_false, List.pairwise_cons]
        refine ⟨fun d hd => ?_, ih ⟨hp.2, fun d hd => ha d (by simp [hd])⟩ fun d hd => hm d (by simp [hd])⟩
        rcases (Memory.mem_place rest k v d).1 hd with rfl | hd
        · exact hck
        · exact hp.1 d hd
  · rcases (Memory.mem_place m k v c).1 hc with rfl | hc
    · exact ⟨hk, hv⟩
    · exact h.2 c hc

/-- A write of a byte keeps the canonical form. -/
theorem Memory.wf_write (h : m.wf) : (m.write addr v).wf := by
  unfold Memory.write
  split
  · exact Memory.wf_without m _ h
  · next hv =>
    exact Memory.wf_place _ _ _ (Memory.wf_without m _ h) addr.isLt hv fun c hc => ((Memory.mem_without m _ c).1 hc).2

/-- A write of a word keeps the canonical form. -/
theorem Memory.wf_writeWord (w : Word) (h : m.wf) : (m.writeWord addr w).wf :=
  Memory.wf_write _ _ _ (Memory.wf_write _ _ _ h)

/-- Whatever the list, its canonical form is canonical. -/
theorem Memory.wf_canonical : m.canonical.wf := by
  induction m with
  | nil => exact Memory.wf_nil
  | cons c rest ih =>
    unfold Memory.canonical
    split
    · exact Memory.wf_write _ _ _ ih
    · exact ih

/-- The canonical form of a list reads as the list does. -/
@[simp] theorem Memory.read_canonical : m.canonical.read addr = m.read addr := by
  induction m with
  | nil => rfl
  | cons c rest ih =>
    have hlt : addr.toNat < 65536 := addr.isLt
    unfold Memory.canonical
    by_cases hc : c.1 < Config.memSize
    · rw [if_pos hc, Memory.read_write, ih]
      have hm : (BitVec.ofNat 16 c.1).toNat = c.1 := by simpa using Nat.mod_eq_of_lt hc
      by_cases he : c.1 = addr.toNat
      · have : addr = BitVec.ofNat 16 c.1 := BitVec.eq_of_toNat_eq (by rw [hm, he])
        rw [if_pos this]; simp [Memory.read, Memory.lookup, he]
      · have : addr ≠ BitVec.ofNat 16 c.1 := fun e => he (by rw [e, hm])
        rw [if_neg this]; simp [Memory.read, Memory.lookup, he]
    · have he : ¬ c.1 = addr.toNat := fun e => hc (e ▸ hlt)
      rw [if_neg hc, ih]; simp [Memory.read, Memory.lookup, he]

/-- Storing a list of bytes keeps the canonical form. -/
theorem Memory.wf_writeBytes (bytes : List Byte) (h : m.wf) : (m.writeBytes addr bytes).wf := by
  induction bytes generalizing m addr with
  | nil => exact h
  | cons b rest ih => exact ih _ _ (Memory.wf_write _ _ _ h)

end Sys2Proof.Machine
end

