-- ==== Sys2Proof/Laws/State.lean ====
section
/-! SUPPORT. One lemma per field per update of the state, true by rfl, so that no later proof unfolds a record update. -/

namespace Sys2Proof.Machine

variable (s : State)

/-! ### `State.setPc` -/

@[simp] theorem State.setPc_pc (v : Word) : (s.setPc v).pc = v := rfl
@[simp] theorem State.setPc_sp (v : Word) : (s.setPc v).sp = s.sp := rfl
@[simp] theorem State.setPc_a (v : Word) : (s.setPc v).a = s.a := rfl
@[simp] theorem State.setPc_x (v : Word) : (s.setPc v).x = s.x := rfl
@[simp] theorem State.setPc_y (v : Word) : (s.setPc v).y = s.y := rfl
@[simp] theorem State.setPc_flagC (v : Word) : (s.setPc v).flagC = s.flagC := rfl
@[simp] theorem State.setPc_flagZ (v : Word) : (s.setPc v).flagZ = s.flagZ := rfl
@[simp] theorem State.setPc_flagI (v : Word) : (s.setPc v).flagI = s.flagI := rfl
@[simp] theorem State.setPc_flagD (v : Word) : (s.setPc v).flagD = s.flagD := rfl
@[simp] theorem State.setPc_flagB (v : Word) : (s.setPc v).flagB = s.flagB := rfl
@[simp] theorem State.setPc_flagV (v : Word) : (s.setPc v).flagV = s.flagV := rfl
@[simp] theorem State.setPc_flagN (v : Word) : (s.setPc v).flagN = s.flagN := rfl
@[simp] theorem State.setPc_cyc (v : Word) : (s.setPc v).cyc = s.cyc := rfl
@[simp] theorem State.setPc_budgetLoaded (v : Word) : (s.setPc v).budgetLoaded = s.budgetLoaded := rfl
@[simp] theorem State.setPc_mem (v : Word) : (s.setPc v).mem = s.mem := rfl
@[simp] theorem State.setPc_diags (v : Word) : (s.setPc v).diags = s.diags := rfl

/-! ### `State.setSp` -/

@[simp] theorem State.setSp_pc (v : Word) : (s.setSp v).pc = s.pc := rfl
@[simp] theorem State.setSp_sp (v : Word) : (s.setSp v).sp = v := rfl
@[simp] theorem State.setSp_a (v : Word) : (s.setSp v).a = s.a := rfl
@[simp] theorem State.setSp_x (v : Word) : (s.setSp v).x = s.x := rfl
@[simp] theorem State.setSp_y (v : Word) : (s.setSp v).y = s.y := rfl
@[simp] theorem State.setSp_flagC (v : Word) : (s.setSp v).flagC = s.flagC := rfl
@[simp] theorem State.setSp_flagZ (v : Word) : (s.setSp v).flagZ = s.flagZ := rfl
@[simp] theorem State.setSp_flagI (v : Word) : (s.setSp v).flagI = s.flagI := rfl
@[simp] theorem State.setSp_flagD (v : Word) : (s.setSp v).flagD = s.flagD := rfl
@[simp] theorem State.setSp_flagB (v : Word) : (s.setSp v).flagB = s.flagB := rfl
@[simp] theorem State.setSp_flagV (v : Word) : (s.setSp v).flagV = s.flagV := rfl
@[simp] theorem State.setSp_flagN (v : Word) : (s.setSp v).flagN = s.flagN := rfl
@[simp] theorem State.setSp_cyc (v : Word) : (s.setSp v).cyc = s.cyc := rfl
@[simp] theorem State.setSp_budgetLoaded (v : Word) : (s.setSp v).budgetLoaded = s.budgetLoaded := rfl
@[simp] theorem State.setSp_mem (v : Word) : (s.setSp v).mem = s.mem := rfl
@[simp] theorem State.setSp_diags (v : Word) : (s.setSp v).diags = s.diags := rfl

/-! ### `State.setA` -/

@[simp] theorem State.setA_pc (v : Byte) : (s.setA v).pc = s.pc := rfl
@[simp] theorem State.setA_sp (v : Byte) : (s.setA v).sp = s.sp := rfl
@[simp] theorem State.setA_a (v : Byte) : (s.setA v).a = v := rfl
@[simp] theorem State.setA_x (v : Byte) : (s.setA v).x = s.x := rfl
@[simp] theorem State.setA_y (v : Byte) : (s.setA v).y = s.y := rfl
@[simp] theorem State.setA_flagC (v : Byte) : (s.setA v).flagC = s.flagC := rfl
@[simp] theorem State.setA_flagZ (v : Byte) : (s.setA v).flagZ = s.flagZ := rfl
@[simp] theorem State.setA_flagI (v : Byte) : (s.setA v).flagI = s.flagI := rfl
@[simp] theorem State.setA_flagD (v : Byte) : (s.setA v).flagD = s.flagD := rfl
@[simp] theorem State.setA_flagB (v : Byte) : (s.setA v).flagB = s.flagB := rfl
@[simp] theorem State.setA_flagV (v : Byte) : (s.setA v).flagV = s.flagV := rfl
@[simp] theorem State.setA_flagN (v : Byte) : (s.setA v).flagN = s.flagN := rfl
@[simp] theorem State.setA_cyc (v : Byte) : (s.setA v).cyc = s.cyc := rfl
@[simp] theorem State.setA_budgetLoaded (v : Byte) : (s.setA v).budgetLoaded = s.budgetLoaded := rfl
@[simp] theorem State.setA_mem (v : Byte) : (s.setA v).mem = s.mem := rfl
@[simp] theorem State.setA_diags (v : Byte) : (s.setA v).diags = s.diags := rfl

/-! ### `State.setLoadFlags` -/

@[simp] theorem State.setLoadFlags_pc (z : Bool) (n : Bool) : (s.setLoadFlags z n).pc = s.pc := rfl
@[simp] theorem State.setLoadFlags_sp (z : Bool) (n : Bool) : (s.setLoadFlags z n).sp = s.sp := rfl
@[simp] theorem State.setLoadFlags_a (z : Bool) (n : Bool) : (s.setLoadFlags z n).a = s.a := rfl
@[simp] theorem State.setLoadFlags_x (z : Bool) (n : Bool) : (s.setLoadFlags z n).x = s.x := rfl
@[simp] theorem State.setLoadFlags_y (z : Bool) (n : Bool) : (s.setLoadFlags z n).y = s.y := rfl
@[simp] theorem State.setLoadFlags_flagC (z : Bool) (n : Bool) : (s.setLoadFlags z n).flagC = s.flagC := rfl
@[simp] theorem State.setLoadFlags_flagZ (z : Bool) (n : Bool) : (s.setLoadFlags z n).flagZ = z := rfl
@[simp] theorem State.setLoadFlags_flagI (z : Bool) (n : Bool) : (s.setLoadFlags z n).flagI = s.flagI := rfl
@[simp] theorem State.setLoadFlags_flagD (z : Bool) (n : Bool) : (s.setLoadFlags z n).flagD = s.flagD := rfl
@[simp] theorem State.setLoadFlags_flagB (z : Bool) (n : Bool) : (s.setLoadFlags z n).flagB = s.flagB := rfl
@[simp] theorem State.setLoadFlags_flagV (z : Bool) (n : Bool) : (s.setLoadFlags z n).flagV = s.flagV := rfl
@[simp] theorem State.setLoadFlags_flagN (z : Bool) (n : Bool) : (s.setLoadFlags z n).flagN = n := rfl
@[simp] theorem State.setLoadFlags_cyc (z : Bool) (n : Bool) : (s.setLoadFlags z n).cyc = s.cyc := rfl
@[simp] theorem State.setLoadFlags_budgetLoaded (z : Bool) (n : Bool) : (s.setLoadFlags z n).budgetLoaded = s.budgetLoaded := rfl
@[simp] theorem State.setLoadFlags_mem (z : Bool) (n : Bool) : (s.setLoadFlags z n).mem = s.mem := rfl
@[simp] theorem State.setLoadFlags_diags (z : Bool) (n : Bool) : (s.setLoadFlags z n).diags = s.diags := rfl

/-! ### `State.setCyc` -/

@[simp] theorem State.setCyc_pc (v : Int) : (s.setCyc v).pc = s.pc := rfl
@[simp] theorem State.setCyc_sp (v : Int) : (s.setCyc v).sp = s.sp := rfl
@[simp] theorem State.setCyc_a (v : Int) : (s.setCyc v).a = s.a := rfl
@[simp] theorem State.setCyc_x (v : Int) : (s.setCyc v).x = s.x := rfl
@[simp] theorem State.setCyc_y (v : Int) : (s.setCyc v).y = s.y := rfl
@[simp] theorem State.setCyc_flagC (v : Int) : (s.setCyc v).flagC = s.flagC := rfl
@[simp] theorem State.setCyc_flagZ (v : Int) : (s.setCyc v).flagZ = s.flagZ := rfl
@[simp] theorem State.setCyc_flagI (v : Int) : (s.setCyc v).flagI = s.flagI := rfl
@[simp] theorem State.setCyc_flagD (v : Int) : (s.setCyc v).flagD = s.flagD := rfl
@[simp] theorem State.setCyc_flagB (v : Int) : (s.setCyc v).flagB = s.flagB := rfl
@[simp] theorem State.setCyc_flagV (v : Int) : (s.setCyc v).flagV = s.flagV := rfl
@[simp] theorem State.setCyc_flagN (v : Int) : (s.setCyc v).flagN = s.flagN := rfl
@[simp] theorem State.setCyc_cyc (v : Int) : (s.setCyc v).cyc = v := rfl
@[simp] theorem State.setCyc_budgetLoaded (v : Int) : (s.setCyc v).budgetLoaded = s.budgetLoaded := rfl
@[simp] theorem State.setCyc_mem (v : Int) : (s.setCyc v).mem = s.mem := rfl
@[simp] theorem State.setCyc_diags (v : Int) : (s.setCyc v).diags = s.diags := rfl

/-! ### `State.loadBudget` -/

@[simp] theorem State.loadBudget_pc (budget : Int) : (s.loadBudget budget).pc = s.pc := rfl
@[simp] theorem State.loadBudget_sp (budget : Int) : (s.loadBudget budget).sp = s.sp := rfl
@[simp] theorem State.loadBudget_a (budget : Int) : (s.loadBudget budget).a = s.a := rfl
@[simp] theorem State.loadBudget_x (budget : Int) : (s.loadBudget budget).x = s.x := rfl
@[simp] theorem State.loadBudget_y (budget : Int) : (s.loadBudget budget).y = s.y := rfl
@[simp] theorem State.loadBudget_flagC (budget : Int) : (s.loadBudget budget).flagC = s.flagC := rfl
@[simp] theorem State.loadBudget_flagZ (budget : Int) : (s.loadBudget budget).flagZ = s.flagZ := rfl
@[simp] theorem State.loadBudget_flagI (budget : Int) : (s.loadBudget budget).flagI = s.flagI := rfl
@[simp] theorem State.loadBudget_flagD (budget : Int) : (s.loadBudget budget).flagD = s.flagD := rfl
@[simp] theorem State.loadBudget_flagB (budget : Int) : (s.loadBudget budget).flagB = s.flagB := rfl
@[simp] theorem State.loadBudget_flagV (budget : Int) : (s.loadBudget budget).flagV = s.flagV := rfl
@[simp] theorem State.loadBudget_flagN (budget : Int) : (s.loadBudget budget).flagN = s.flagN := rfl
@[simp] theorem State.loadBudget_cyc (budget : Int) : (s.loadBudget budget).cyc = budget := rfl
@[simp] theorem State.loadBudget_budgetLoaded (budget : Int) : (s.loadBudget budget).budgetLoaded = true := rfl
@[simp] theorem State.loadBudget_mem (budget : Int) : (s.loadBudget budget).mem = s.mem := rfl
@[simp] theorem State.loadBudget_diags (budget : Int) : (s.loadBudget budget).diags = s.diags := rfl

/-! ### `State.setMem` -/

@[simp] theorem State.setMem_pc (m : Memory) : (s.setMem m).pc = s.pc := rfl
@[simp] theorem State.setMem_sp (m : Memory) : (s.setMem m).sp = s.sp := rfl
@[simp] theorem State.setMem_a (m : Memory) : (s.setMem m).a = s.a := rfl
@[simp] theorem State.setMem_x (m : Memory) : (s.setMem m).x = s.x := rfl
@[simp] theorem State.setMem_y (m : Memory) : (s.setMem m).y = s.y := rfl
@[simp] theorem State.setMem_flagC (m : Memory) : (s.setMem m).flagC = s.flagC := rfl
@[simp] theorem State.setMem_flagZ (m : Memory) : (s.setMem m).flagZ = s.flagZ := rfl
@[simp] theorem State.setMem_flagI (m : Memory) : (s.setMem m).flagI = s.flagI := rfl
@[simp] theorem State.setMem_flagD (m : Memory) : (s.setMem m).flagD = s.flagD := rfl
@[simp] theorem State.setMem_flagB (m : Memory) : (s.setMem m).flagB = s.flagB := rfl
@[simp] theorem State.setMem_flagV (m : Memory) : (s.setMem m).flagV = s.flagV := rfl
@[simp] theorem State.setMem_flagN (m : Memory) : (s.setMem m).flagN = s.flagN := rfl
@[simp] theorem State.setMem_cyc (m : Memory) : (s.setMem m).cyc = s.cyc := rfl
@[simp] theorem State.setMem_budgetLoaded (m : Memory) : (s.setMem m).budgetLoaded = s.budgetLoaded := rfl
@[simp] theorem State.setMem_mem (m : Memory) : (s.setMem m).mem = m := rfl
@[simp] theorem State.setMem_diags (m : Memory) : (s.setMem m).diags = s.diags := rfl

/-! ### `State.emitDiag` -/

@[simp] theorem State.emitDiag_pc (op : Byte) : (s.emitDiag op).pc = s.pc := rfl
@[simp] theorem State.emitDiag_sp (op : Byte) : (s.emitDiag op).sp = s.sp := rfl
@[simp] theorem State.emitDiag_a (op : Byte) : (s.emitDiag op).a = s.a := rfl
@[simp] theorem State.emitDiag_x (op : Byte) : (s.emitDiag op).x = s.x := rfl
@[simp] theorem State.emitDiag_y (op : Byte) : (s.emitDiag op).y = s.y := rfl
@[simp] theorem State.emitDiag_flagC (op : Byte) : (s.emitDiag op).flagC = s.flagC := rfl
@[simp] theorem State.emitDiag_flagZ (op : Byte) : (s.emitDiag op).flagZ = s.flagZ := rfl
@[simp] theorem State.emitDiag_flagI (op : Byte) : (s.emitDiag op).flagI = s.flagI := rfl
@[simp] theorem State.emitDiag_flagD (op : Byte) : (s.emitDiag op).flagD = s.flagD := rfl
@[simp] theorem State.emitDiag_flagB (op : Byte) : (s.emitDiag op).flagB = s.flagB := rfl
@[simp] theorem State.emitDiag_flagV (op : Byte) : (s.emitDiag op).flagV = s.flagV := rfl
@[simp] theorem State.emitDiag_flagN (op : Byte) : (s.emitDiag op).flagN = s.flagN := rfl
@[simp] theorem State.emitDiag_cyc (op : Byte) : (s.emitDiag op).cyc = s.cyc := rfl
@[simp] theorem State.emitDiag_budgetLoaded (op : Byte) : (s.emitDiag op).budgetLoaded = s.budgetLoaded := rfl
@[simp] theorem State.emitDiag_mem (op : Byte) : (s.emitDiag op).mem = s.mem := rfl
@[simp] theorem State.emitDiag_diags (op : Byte) : (s.emitDiag op).diags = s.diags ++ [.decodeFail op] := rfl

end Sys2Proof.Machine
end

