-- ==== Sys2Proof/Laws/Ops.lean ====
section
/-! SUPPORT. For each shared operation, one lemma that says everything it does. -/

namespace Sys2Proof.Machine

variable (s : State)

/-! ### The primitives (40_execute_cycle.md R65 to R69) -/

theorem charge_eq (n : Int) : charge n s = { s with cyc := s.cyc - n } := rfl

theorem fetchByte_eq : fetchByte s = (s.mem.read s.pc, { s with pc := s.pc + 1#16, cyc := s.cyc - 1 }) := rfl

theorem fetchWord_eq : fetchWord s = (s.mem.readWord s.pc, { s with pc := s.pc + 2#16, cyc := s.cyc - 2 }) := rfl

theorem readByte_eq (addr : Word) : readByte addr s = (s.mem.read addr, { s with cyc := s.cyc - 1 }) := rfl

theorem writeWord_eq (addr v : Word) :
    writeWord addr v s = { s with mem := s.mem.writeWord addr v, cyc := s.cyc - 2 } := rfl

theorem consumeByte_eq : consumeByte s = { s with pc := s.pc + 1#16, cyc := s.cyc - 1 } := rfl

theorem consumeWord_eq : consumeWord s = { s with pc := s.pc + 2#16, cyc := s.cyc - 2 } := rfl

/-! ### The addressing modes (40_execute_cycle.md R74) -/

theorem immediateOperand_eq (imm : Byte) :
    immediateOperand imm s = (imm, { s with pc := s.pc + 1#16, cyc := s.cyc - 1 }) := rfl

theorem zeroPageOperand_eq (zp : Byte) : zeroPageOperand zp s =
    (s.mem.read (zeroPageAddr zp), { s with pc := s.pc + 1#16, cyc := s.cyc - 1 - 1 }) := rfl

theorem zeroPageXOperand_eq (zp : Byte) : zeroPageXOperand zp s =
    (s.mem.read (zeroPageXAddr zp s.x), { s with pc := s.pc + 1#16, cyc := s.cyc - 1 - 1 - 1 }) := rfl

theorem absoluteWordOperand_eq (target : Word) :
    absoluteWordOperand target s = (target, { s with pc := s.pc + 2#16, cyc := s.cyc - 2 }) := rfl

/-! ### Loads, the call, the diagnostic -/

/-- A load writes `A`, `Z`, `N` and nothing else (41_load.md R85, R86). -/
theorem loadAccumulator_eq (v : Byte) :
    loadAccumulator (v, s) = { s with a := v, flagZ := zeroDetect v, flagN := signDetect v } := rfl

/-- With the delta the spec takes, `SP` stays (42_jsr.md R97; notes/assumptions/5.md). -/
@[simp] theorem moveSpAfterCall_eq : moveSpAfterCall s = s := by
  simp [moveSpAfterCall, State.setSp]

/-- The call writes the return word at `SP`, `PC` and `CYC`, and nothing else (42_jsr.md R95, R97). -/
theorem callSubroutine_eq (target : Word) : callSubroutine (target, s) =
    { s with pc := target, mem := s.mem.writeWord s.sp (s.pc - 1#16), cyc := s.cyc - 2 - 1 } := by
  simp only [callSubroutine, moveSpAfterCall_eq]
  rfl

theorem emitDiag_eq (op : Byte) : s.emitDiag op = { s with diags := s.diags ++ [.decodeFail op] } := rfl

@[simp] theorem inRun_iff : inRun s = true ↔ s.InRun := by simp [inRun, State.InRun]

/-- A core is idle or inside a run, and not both (60_exceptions.md R118). -/
theorem idle_iff_not_inRun : s.Idle ↔ ¬ s.InRun := by
  simp only [State.Idle, State.InRun, not_and, not_lt, ← Bool.not_eq_true]
  tauto

theorem inRun_eq_false (h : s.Idle) : inRun s = false := by
  rw [← Bool.not_eq_true, inRun_iff]; exact (idle_iff_not_inRun s).1 h

/-! ### The host operations (60_exceptions.md R119) -/

theorem loadBudget_eq (budget : Int) : s.loadBudget budget = { s with cyc := budget, budgetLoaded := true } := rfl

theorem construct_eq (u : State) :
    construct u s = { u with mem := u.mem.canonical, budgetLoaded := false, diags := [] } := rfl

theorem resetAll_eq : resetAll s = State.reset := rfl

theorem poke_eq (addr : Word) (v : Byte) : poke addr v s = { s with mem := s.mem.write addr v } := rfl

end Sys2Proof.Machine
end

