-- ==== Sys2Proof/Laws/PerInstr.lean ====
section
/-! SUPPORT. The family of statements made per instruction: the length told from the first encoded byte alone is the number of
bytes the instruction is encoded in (30_encoding.md R54). -/

namespace Sys2Proof.Laws.EncodedLength

/-- A well-formed instruction is encoded in `instrLength` bytes, and the first of them tells that length. -/
def Statement (i : Instr) : Prop :=
  i.wf = true → (encode i).length = instrLength i ∧ opcodeLength ((encode i).headD 0#8) = instrLength i

theorem ldaImm (imm : Byte) : Statement (.ldaImm imm) := fun _ => ⟨rfl, rfl⟩

theorem ldaZp (zp : Byte) : Statement (.ldaZp zp) := fun _ => ⟨rfl, rfl⟩

theorem ldaZpX (zp : Byte) : Statement (.ldaZpX zp) := fun _ => ⟨rfl, rfl⟩

theorem jsr (target : Word) : Statement (.jsr target) := fun _ => ⟨rfl, rfl⟩

theorem undef (op : Byte) : Statement (.undef op) := by
  intro h
  simp only [Instr.wf, isDefinedOpcode, Bool.not_eq_true', Bool.or_eq_false_iff, beq_eq_false_iff_ne] at h
  obtain ⟨⟨⟨h1, h2⟩, h3⟩, h4⟩ := h
  simp [encode, instrLength, opcodeLength, h1, h2, h3, h4]

end Sys2Proof.Laws.EncodedLength
end

