-- ==== Sys2Proof/Laws/Step.lean ====
section
/-! SUPPORT. What the step and the run loop do in each of their cases; the meanings are left folded. -/

namespace Sys2Proof.Machine

variable (s : State)

theorem next_of_nextOf (o : Host.Outcome State Fault Refusal) (t : State) (h : nextOf o = some t) : o = .next t := by
  cases o with
  | next u => rw [Option.some.inj h]
  | fault r => cases r
  | refused r => cases h

theorem step_of_inRun (h : s.InRun) : step s = exec (fetchInstr s.mem s.pc) s := by
  simp [step, h]

theorem step_of_idle (h : s.Idle) : step s = .next s := by
  simp [step, inRun_eq_false s h]

theorem runLoop_of_idle (k : Nat) (h : s.Idle) : runLoop k s = .next s := by
  cases k <;> simp [runLoop, inRun_eq_false s h]

theorem runLoop_of_step (k : Nat) (t : State) (h : s.InRun) (ht : step s = .next t) :
    runLoop (k + 1) s = runLoop k t := by
  simp [runLoop, h, ht]

end Sys2Proof.Machine
end

