-- ==== Sys2Proof/Tests/Slice0.lean ====
section
/-! SUPPORT. Tests. Every expected result is from the spec: the encodings of 30_encoding.md, the vectors V and source examples S of
95_test_vectors.md. The witnesses meet the hypotheses of the statements. -/

namespace Sys2Proof.Tests

open Sys2Proof.Machine

/-! ### Well-formedness: a term each check refuses -/

theorem test_wf_refuses_defined_opcodes :
    (Instr.undef 0xA9).wf = false ∧ (Instr.undef 0xA5).wf = false ∧ (Instr.undef 0xB5).wf = false ∧
    (Instr.undef 0x20).wf = false := by decide

/-- The neighbours of the four defined opcodes, V36. -/
theorem test_wf_accepts_undefined_opcodes :
    ([0x1F, 0x21, 0xA4, 0xA6, 0xA8, 0xAA, 0xB4, 0xB6, 0x00, 0xFF] : List Byte).all (fun b => (Instr.undef b).wf) = true := by
  decide

/-! ### Decoding, each word written out bit by bit from R51 and R53 -/

/-- F2, `10101001 iiiiiiii`. -/
theorem test_decode_lda_imm : decode [0b10101001#8, 0b10000100#8] = .ok (.ldaImm 0x84, []) := by decide

/-- F2, `10100101 iiiiiiii`. -/
theorem test_decode_lda_zp : decode [0b10100101#8, 0b01000010#8] = .ok (.ldaZp 0x42, []) := by decide

/-- F2, `10110101 iiiiiiii`. -/
theorem test_decode_lda_zpx : decode [0b10110101#8, 0b00000010#8] = .ok (.ldaZpX 0x02, []) := by decide

/-- F3, `00100000 llllllll hhhhhhhh`. -/
theorem test_decode_jsr : decode [0b00100000#8, 0b00110100#8, 0b00010010#8] = .ok (.jsr 0x1234, []) := by decide

/-- F1, one byte; the bytes after it are not its operands (V37). -/
theorem test_decode_undef : decode [0b10101101#8, 0b00100000#8] = .ok (.undef 0xAD, [0x20]) := by decide

theorem test_decode_refuses_short_lists :
    decode [] = .error .noBytes ∧ decode [0xA9] = .error (.operandMissing 0xA9) ∧
    decode [0x20, 0x42] = .error (.operandMissing 0x20) := by decide

theorem test_encode_jsr : encode (.jsr 0x1234) = [0x20, 0x34, 0x12] := by decide

/-- The table numbers the first byte as bits 7 to 0; the bits above `nbits` are 0. -/
theorem test_decode_table_word :
    decodeTableWord 24 0x123420 = some (.jsr 0x1234) ∧ decodeTableWord 8 0x20 = some (.jsr 0x0000) ∧
    decodeTableWord 8 0x84A9 = some (.ldaImm 0x00) ∧ decodeTableWord 16 0x84A9 = some (.ldaImm 0x84) ∧
    decodeTableWord 8 0xEA = some (.undef 0xEA) := by decide

/-! ### Small states -/

/-- The reset state inside a run with `pc`, `cyc` and the bytes given, poked at `pc`. -/
def launch (pc : Word) (cyc : Int) (bytes : List Byte) : State :=
  { State.reset with pc := pc, cyc := cyc, budgetLoaded := true, mem := Memory.writeBytes [] pc bytes }

/-- One more byte poked. -/
def withByte (s : State) (addr : Word) (v : Byte) : State := poke addr v s

/-- What a step leaves, seen through `f`. -/
def after {α : Type} (f : State → α) (s : State) : Option α := (nextOf (step s)).map f

/-! ### One step of each instruction -/

/-- V7: the operand is read across the top of memory. -/
theorem test_lda_imm_wraps :
    after (fun t => (t.a, t.pc, t.cyc)) (launch 0xFFFF 2 [0xA9, 0x01]) = some (0x01, 0x0001, 0) := by decide

/-- V2: a zero result sets `Z` and clears `N`. -/
theorem test_lda_imm_zero :
    after (fun t => (t.a, t.flagZ, t.flagN)) { launch 0x0200 2 [0xA9, 0x00] with a := 0x55, flagN := true } =
      some (0x00, true, false) := by decide

/-- V12: 0x00FF is read, never 0x01FF. -/
theorem test_lda_zp_top :
    after (fun t => (t.a, t.flagZ, t.flagN)) (withByte (withByte (launch 0x0200 3 [0xA5, 0xFF]) 0x00FF 0x80) 0x01FF 0x11) =
      some (0x80, false, true) := by decide

/-- V15: overrun, the instruction completes. -/
theorem test_lda_zp_overrun :
    after (fun t => (t.a, t.pc, t.cyc)) (withByte (launch 0x0200 1 [0xA5, 0x42]) 0x0042 0x37) =
      some (0x37, 0x0202, -2) := by decide

/-- V16, S6: the index sum wraps inside the zero page. -/
theorem test_lda_zpx_wraps :
    after (fun t => (t.a, t.x, t.cyc))
      { withByte (withByte (launch 0x0200 4 [0xB5, 0x02]) 0x0001 0x5A) 0x0101 0xA5 with x := 0xFF } =
      some (0x5A, 0xFF, 0) := by decide

/-- V19: the wrapping sum writes no flag; the zero byte sets `Z`. -/
theorem test_lda_zpx_flags :
    after (fun t => (t.a, t.flagZ, t.flagC, t.flagV))
      { launch 0x0200 4 [0xB5, 0x80] with x := 0x80, a := 0x33, flagC := true, flagV := true } =
      some (0x00, true, true, true) := by decide

/-- V26: the operand is fetched across the wrap; the return word is 0x0000. -/
theorem test_jsr_operand_wraps :
    after (fun t => (t.pc, t.mem.readWord 0x0100, t.sp, t.cyc))
      (withByte (withByte (launch 0xFFFE 6 [0x20, 0x00, 0x30]) 0x0100 0xAA) 0x0101 0xAA) =
      some (0x3000, 0x0000, 0x0100, 0) := by decide

/-- V28: the word write wraps; V30's order, low byte at `SP`. -/
theorem test_jsr_write_wraps :
    after (fun t => (t.pc, t.mem.read 0xFFFF, t.mem.read 0x0000, t.sp)) { launch 0x0200 6 [0x20, 0x00, 0x03] with sp := 0xFFFF } =
      some (0x0300, 0x02, 0x02, 0xFFFF) := by decide

/-- V34: nothing but `PC`, `CYC` and the diagnostic. -/
theorem test_undef_step :
    after (fun t => (t.pc, t.cyc, t.a, t.diags)) { launch 0x0200 3 [0xEA] with a := 0x7F } =
      some (0x0201, 2, 0x7F, [.decodeFail 0xEA]) := by decide

/-- V35: the top of memory. -/
theorem test_undef_wraps :
    after (fun t => (t.pc, t.cyc, t.diags)) (launch 0xFFFF 1 [0xFF]) = some (0x0000, 0, [.decodeFail 0xFF]) := by decide

/-! ### Reset, the idle core, the host -/

/-- The table of 10_state.md R25. -/
theorem test_reset_registers :
    (State.reset.pc, State.reset.sp, State.reset.a, State.reset.x, State.reset.y) = (0xFFFC, 0x0100, 0, 0, 0) := by decide

/-- R118: all state survives idleness. -/
theorem test_idle_step : nextOf (step State.reset) = some State.reset := by decide

/-- R117: the host's table word runs as the first instruction after reset. -/
theorem test_first_instruction_after_reset :
    after (fun t => (t.a, t.pc)) (State.reset.withFetchWord 16 0x84A9) = some (0x84, 0xFFFE) := by decide

/-- V44: a budget that is not positive runs no step. -/
theorem test_execute_negative_budget :
    (nextOf (execute (-3) (launch 0xFFFC 0 [0xA9, 0x01]))).map (fun t => (t.pc, t.a, t.cyc)) = some (0xFFFC, 0x00, -3) := by
  decide

/-- V32: a budget of 1 runs the whole JSR. -/
theorem test_execute_overrun :
    (nextOf (execute 1 (launch 0xFFFC 0 [0x20, 0x42, 0x42]))).map (fun t => (t.pc, t.mem.readWord 0x0100, t.cyc)) =
      some (0x4242, 0xFFFE, -5) := by decide

/-- V41: Reset erases what was poked before. -/
theorem test_reset_erases : (resetAll (launch 0xFFFC 0 [0xA9, 0x84])).mem.read 0xFFFC = 0x00 := by decide

/-- R119: a constructed core is idle whatever its `CYC`, so its first Reset is done. -/
theorem test_construct_then_reset :
    nextOf (hostStep .reset (construct { State.reset with cyc := 7, a := 0xFF } State.reset)) = some State.reset := by decide

/-- The canonical form: writing 0x00 removes the entry. -/
theorem test_write_zero_removes : Memory.write [(5, 1), (7, 2)] 5 0x00 = [(7, 2)] := by decide

/-- V49, V53: the word primitives. -/
theorem test_word_primitives :
    (fetchWord (launch 0x1000 5 [0x34, 0x12])).1 = 0x1234 ∧ (writeWord 0xFFFF 0x1234 (launch 0x1000 1 [])).mem =
      [(0, 0x12), (65535, 0x34)] := by decide

/-! ### Witnesses of the statements' hypotheses -/

/-- A running state in front of `LDA #0x84`. -/
def atLdaImm : State := launch 0x0200 2 [0xA9, 0x84]

/-- A running state in front of `LDA 0xFF`. -/
def atLdaZp : State := withByte (launch 0x0200 3 [0xA5, 0xFF]) 0x00FF 0x80

/-- A running state in front of `LDA 0x02,X` whose index sum wraps. -/
def atLdaZpX : State := { withByte (launch 0x0200 4 [0xB5, 0x02]) 0x0001 0x5A with x := 0xFF }

/-- A running state in front of `JSR 0x1234`, with budget for one cycle-unit. -/
def atJsr : State := launch 0xFFFC 1 [0x20, 0x34, 0x12]

/-- A running state in front of an undefined opcode. -/
def atUndef : State := launch 0x0200 1 [0xEA]

theorem witness_FormatsDecode :
    ([0x00, 0x1F, 0x21, 0xFF] : List Byte).all (fun op => op ≠ 0x20 ∧ op ≠ 0xA5 ∧ op ≠ 0xA9 ∧ op ≠ 0xB5) = true := by decide

theorem witness_DecodeOfEncode :
    (Instr.ldaImm 0xFF).wf = true ∧ (Instr.ldaZp 0xFF).wf = true ∧ (Instr.ldaZpX 0xFF).wf = true ∧
    (Instr.jsr 0xFFFF).wf = true ∧ (Instr.undef 0xFF).wf = true := by decide

theorem witness_DecodeAcceptsOnlyEncodings :
    decode [0x20, 0xFF, 0xFF, 0x07] = .ok (.jsr 0xFFFF, [0x07]) ∧ decode [0xFF] = .ok (.undef 0xFF, []) := by decide

theorem witness_StepRunsDecodedInstruction :
    (Instr.jsr 0x1234).wf = true ∧ atJsr.InRun ∧ atJsr.mem.Holds atJsr.pc (encode (.jsr 0x1234)) :=
  ⟨by decide, by decide, by decide, by decide, by decide, trivial⟩

/-- After reset; at the end of a run; and before any Execute, with `CYC` above 0. -/
theorem witness_IdleStepKeepsState :
    State.reset.Idle ∧ (launch 0x0200 (-5) []).Idle ∧ ({ State.reset with cyc := 7 } : State).Idle := by decide

theorem witness_DispatchByOpcodeByte :
    (atLdaImm.InRun ∧ atLdaImm.mem.read atLdaImm.pc = 0xA9) ∧ (atLdaZp.InRun ∧ atLdaZp.mem.read atLdaZp.pc = 0xA5) ∧
    (atLdaZpX.InRun ∧ atLdaZpX.mem.read atLdaZpX.pc = 0xB5) ∧ (atJsr.InRun ∧ atJsr.mem.read atJsr.pc = 0x20) ∧
    (atUndef.InRun ∧ atUndef.mem.read atUndef.pc = 0xEA) := by decide

theorem witness_StepRefinesPseudocode : atLdaZpX.InRun := by decide

theorem witness_LoadFlagsDerived :
    loadedByte (.ldaImm 0x84) atLdaImm = some 0x84 ∧ loadedByte (.ldaZp 0xFF) atLdaZp = some 0x80 ∧
    loadedByte (.ldaZpX 0x02) atLdaZpX = some 0x5A := by decide

theorem witness_LdaImmediateResult :
    atLdaImm.InRun ∧ atLdaImm.mem.read atLdaImm.pc = 0xA9 ∧ atLdaImm.mem.read (atLdaImm.pc + 1) = 0x84 := by decide

theorem witness_LdaZeroPageResult :
    atLdaZp.InRun ∧ atLdaZp.mem.read atLdaZp.pc = 0xA5 ∧ atLdaZp.mem.read (atLdaZp.pc + 1) = 0xFF ∧
    atLdaZp.mem.read (BitVec.ofNat 16 (0xFF#8).toNat) = 0x80 := by decide

theorem witness_LdaZeroPageXResult :
    atLdaZpX.InRun ∧ atLdaZpX.mem.read atLdaZpX.pc = 0xB5 ∧ atLdaZpX.mem.read (atLdaZpX.pc + 1) = 0x02 ∧
    atLdaZpX.mem.read (BitVec.ofNat 16 (((0x02#8).toNat + atLdaZpX.x.toNat) % 256)) = 0x5A := by decide

theorem witness_LoadsFrame : loadedByte (.ldaZpX 0x02) atLdaZpX = some 0x5A := by decide

/-- Two memories that agree on the zero page and differ at 0x0200. -/
theorem witness_LoadsReadOnlyZeroPage :
    loadedByte (.ldaZp 0xFF) atLdaZp = some 0x80 ∧
    (∀ addr : Word, addr.toNat < 256 → (atLdaZp.mem.write 0x0200 0x77).read addr = atLdaZp.mem.read addr) ∧
    ∃ t, exec (.ldaZp 0xFF) atLdaZp = .next t :=
  ⟨by decide, fun addr h => Memory.read_write_ne _ _ _ _ (by rintro rfl; exact absurd h (by decide)), _, rfl⟩

theorem witness_JsrResult :
    atJsr.InRun ∧ atJsr.mem.read atJsr.pc = 0x20 ∧ (atJsr.mem.read (atJsr.pc + 1)).toNat = (0x1234#16).toNat % 256 ∧
    (atJsr.mem.read (atJsr.pc + 2)).toNat = (0x1234#16).toNat / 256 := by decide

/-- At the edge: `SP = 0xFFFF`, the address 0x0001 lies outside the two stored bytes. -/
theorem witness_JsrFrame : (0x0001#16 : Word) ≠ 0xFFFF ∧ (0x0001#16 : Word) ≠ 0xFFFF#16 + 1 := by decide

theorem witness_SecondCallReplacesReturnWord :
    ∃ t u, exec (.jsr 0x1234) atJsr = .next t ∧ exec (.jsr 0x0300) t = .next u := ⟨_, _, rfl, rfl⟩

theorem witness_FetchSeesCallWrite : ∃ t, exec (.jsr 0x0100) atJsr = .next t ∧ (0x0100#16 : Word) = atJsr.sp :=
  ⟨_, rfl, by decide⟩

theorem witness_UndefinedOpcodeResult :
    atUndef.InRun ∧ atUndef.mem.read atUndef.pc = 0xEA ∧ (0xEA#8 : Byte) ≠ 0x20 ∧ (0xEA#8 : Byte) ≠ 0xA5 ∧
    (0xEA#8 : Byte) ≠ 0xA9 ∧ (0xEA#8 : Byte) ≠ 0xB5 := by decide

theorem witness_OnlyUndefinedOpcodesReport :
    (atUndef.InRun ∧ ∃ t, step atUndef = .next t) ∧ (atJsr.InRun ∧ ∃ t, step atJsr = .next t) :=
  ⟨⟨by decide, _, rfl⟩, by decide, _, rfl⟩

/-- All-zero memory, R100 corner case (a). -/
theorem witness_UndefinedRunAdvancesByBudget :
    ∀ addr : Word, State.reset.mem.read addr ∉ [0x20#8, 0xA5#8, 0xA9#8, 0xB5#8] := by
  intro addr
  have h : State.reset.mem.read addr = 0x00#8 := rfl
  rw [h]; decide

theorem witness_YNeverReadNorWritten :
    (∃ t, hostStep (.execute 1) State.reset = .next t) ∧ (∃ t, hostStep (.poke 0xFFFF 0xFF) State.reset = .next t) ∧
    (∃ t, hostStep (.preset (.x 0xFF)) State.reset = .next t) ∧ (∃ t, hostStep .inspect State.reset = .next t) :=
  ⟨⟨_, rfl⟩, ⟨_, rfl⟩, ⟨_, rfl⟩, _, rfl⟩

theorem witness_FlagsNeverRead :
    (atLdaZpX.InRun ∧ atLdaZpX.mem.read atLdaZpX.pc ∈ [0xA5#8, 0xA9#8, 0xB5#8]) ∧ State.reset.Idle ∧
    atJsr.mem.read atJsr.pc ∉ [0xA5#8, 0xA9#8, 0xB5#8] ∧ atUndef.mem.read atUndef.pc ∉ [0xA5#8, 0xA9#8, 0xB5#8] := by decide

theorem witness_AccumulatorWrittenByLoadsOnly :
    (atLdaImm.InRun ∧ atLdaImm.mem.read atLdaImm.pc ∈ [0xA5#8, 0xA9#8, 0xB5#8]) ∧
    atJsr.mem.read atJsr.pc ∉ [0xA5#8, 0xA9#8, 0xB5#8] := by decide

theorem witness_XReadByIndexedLoadOnly :
    atLdaZp.mem.read atLdaZp.pc ≠ 0xB5#8 ∧ (∃ t, hostStep (.execute 1) State.reset = .next t) ∧
    (∃ t, hostStep (.preset (.y 0xFF)) State.reset = .next t) := ⟨by decide, ⟨_, rfl⟩, _, rfl⟩

theorem witness_PcSequentialOrJsrTarget :
    (atJsr.InRun ∧ ∃ t, step atJsr = .next t) ∧ (atLdaZp.InRun ∧ ∃ t, step atLdaZp = .next t) ∧
    (atUndef.InRun ∧ ∃ t, step atUndef = .next t) := ⟨⟨by decide, _, rfl⟩, ⟨by decide, _, rfl⟩, by decide, _, rfl⟩

theorem witness_StepKeepsIndexAndStackRegisters :
    (∃ t, step atLdaImm = .next t ∧ atLdaImm.mem.read atLdaImm.pc ≠ 0x20) ∧
    (∃ t, step atJsr = .next t ∧ (0x00FF#16 : Word) ≠ atJsr.sp ∧ (0x00FF#16 : Word) ≠ atJsr.sp + 1) :=
  ⟨⟨_, rfl, by decide⟩, _, rfl, by decide⟩

theorem witness_StepKeepsInvariant : atJsr.Inv ∧ ∃ t, step atJsr = .next t :=
  ⟨⟨by decide, by decide⟩, _, rfl⟩

theorem witness_LoadFlagsAgreementKept :
    (loadedByte (.ldaImm 0x84) atLdaImm = some 0x84 ∧ ∃ t, exec (.ldaImm 0x84) atLdaImm = .next t) ∧
    (({ atJsr with flagZ := true } : State).LoadFlagsAgree ∧ ∃ t, step { atJsr with flagZ := true } = .next t) :=
  ⟨⟨by decide, _, rfl⟩, ⟨by decide, by decide⟩, _, rfl⟩

theorem witness_CanonicalMemoryIsUnique :
    Memory.wf [(0, 1), (65535, 2)] ∧ Memory.wf (Memory.write [(65535, 2)] 0x0000 0x01) ∧
    ∀ addr : Word, Memory.read [(0, 1), (65535, 2)] addr = Memory.read (Memory.write [(65535, 2)] 0x0000 0x01) addr :=
  ⟨by decide, by decide, fun _ => rfl⟩

theorem witness_WordsAreLittleEndian : (0x0001#16 : Word) ≠ 0xFFFF ∧ (0x0001#16 : Word) ≠ 0xFFFF#16 + 1 := by decide

theorem witness_StepLowersCycOneToSix : atUndef.InRun ∧ atJsr.InRun := by decide

theorem witness_OverrunCompletesThenHalts :
    (Instr.jsr 0x1234).wf = true ∧ atJsr.mem.Holds atJsr.pc (encode (.jsr 0x1234)) ∧ atJsr.InRun ∧
    atJsr.cyc < tableCost (.jsr 0x1234) :=
  ⟨by decide, ⟨by decide, by decide, by decide, trivial⟩, by decide, by decide⟩

/-- Each clause at its boundary: a budget of 1, and a budget of 0; the step before the end. -/
theorem witness_ExecuteStopsAtFirstIdleBoundary : (1 : Int) ≤ 1 ∧ (0 : Int) ≤ 0 ∧ (0 : Nat) < 1 := by decide

theorem witness_ResetErasesMemory : (launch 0xFFFC 0 [0xA9, 0x84]).Idle := by decide

theorem witness_ResetReadsNoVector : (0 : Int) < 1 := by decide

theorem witness_PokeAndPresetWriteOneThing : State.reset.Idle ∧ (0x0000#16 : Word) ≠ 0xFFFF := by decide

/-- An unspecified state whose `CYC` is above 0 and whose memory list is not canonical. -/
theorem witness_ConstructedCoreIsIdleUntilReset :
    State.reset.Idle ∧ 0 < ({ State.reset with cyc := 7, mem := [(9, 1), (2, 0)] } : State).cyc := by decide

theorem witness_HostOperationsEndIdle : State.reset.Idle ∧ State.reset.mem.wf := by decide

theorem witness_HostRefusedDuringRun : atJsr.InRun := by decide

end Sys2Proof.Tests
end

/-! ## What an instruction and a step do

The whole next state of every instruction, the instruction fetched for every opcode byte, and what a step can answer. -/

namespace Sys2Proof.Machine

/-! ### The effect of an instruction -/

/-- The next state of each instruction, every field of it (41_load.md R87 to R89, 42_jsr.md R95, 43_unknown_opcode.md R100). `exec_eq`
says that `exec` answers it. -/
def effect (i : Instr) (s : State) : State :=
  match i with
  | .ldaImm imm =>
    { s with a := imm, flagZ := zeroDetect imm, flagN := signDetect imm, pc := s.pc + 2#16, cyc := s.cyc - 2 }
  | .ldaZp zp =>
    let v := s.mem.read (zeroPageAddr zp)
    { s with a := v, flagZ := zeroDetect v, flagN := signDetect v, pc := s.pc + 2#16, cyc := s.cyc - 3 }
  | .ldaZpX zp =>
    let v := s.mem.read (zeroPageXAddr zp s.x)
    { s with a := v, flagZ := zeroDetect v, flagN := signDetect v, pc := s.pc + 2#16, cyc := s.cyc - 4 }
  | .jsr target => { s with pc := target, mem := s.mem.writeWord s.sp (s.pc + 2#16), cyc := s.cyc - 6 }
  | .undef op => { s with pc := s.pc + 1#16, cyc := s.cyc - 1, diags := s.diags ++ [.decodeFail op] }

/-- The second byte on, one byte at a time. -/
theorem add_one_add_one (w : Word) : w + 1#16 + 1#16 = w + 2#16 := by bv_omega

/-- Every instruction completes, in every state (40_execute_cycle.md R72). -/
theorem exec_eq (i : Instr) (s : State) : exec i s = .next (effect i s) := by
  have past (w : Word) : w + 1#16 + 2#16 - 1#16 = w + 2#16 := by bv_omega
  cases i with
  | ldaImm imm =>
    simp [exec, execLdaImm, consumeByte_eq, immediateOperand_eq, loadAccumulator_eq, effect, add_one_add_one, Int.sub_sub]
  | ldaZp zp =>
    simp [exec, execLdaZp, consumeByte_eq, zeroPageOperand_eq, loadAccumulator_eq, effect, add_one_add_one, Int.sub_sub]
  | ldaZpX zp =>
    simp [exec, execLdaZpX, consumeByte_eq, zeroPageXOperand_eq, loadAccumulator_eq, effect, add_one_add_one, Int.sub_sub]
  | jsr target =>
    simp [exec, execJsr, consumeByte_eq, absoluteWordOperand_eq, callSubroutine_eq, effect, past, Int.sub_sub]
  | undef op => rfl

/-- The index sum in integer arithmetic (41_load.md R89). -/
theorem zeroPageXAddr_eq_ofNat (zp x : Byte) :
    zeroPageXAddr zp x = BitVec.ofNat 16 ((zp.toNat + x.toNat) % 256) := by
  apply BitVec.eq_of_toNat_eq
  simp [zeroPageXAddr, zeroPageAddr]

section
variable (i : Instr) (s : State)

@[simp] theorem effect_x : (effect i s).x = s.x := by cases i <;> rfl
@[simp] theorem effect_y : (effect i s).y = s.y := by cases i <;> rfl
@[simp] theorem effect_sp : (effect i s).sp = s.sp := by cases i <;> rfl

/-- Only the two bytes at the stack address can change (42_jsr.md R95). -/
theorem effect_read_of_ne (addr : Word) (h : addr ≠ s.sp) (h' : addr ≠ s.sp + 1#16) :
    (effect i s).mem.read addr = s.mem.read addr := by
  cases i with
  | jsr target => simp [effect, Memory.read_writeWord, h, h']
  | _ => rfl

end

/-! ### The fetched instruction -/

section
variable (m : Memory) (pc : Word)

/-- The five behaviours of the dispatch, by the opcode byte, with their operands (30_encoding.md R57, 40_execute_cycle.md R73). -/
theorem fetchInstr_cases :
    (m.read pc = 0xA9#8 ∧ fetchInstr m pc = .ldaImm (m.read (pc + 1#16))) ∨
    (m.read pc = 0xA5#8 ∧ fetchInstr m pc = .ldaZp (m.read (pc + 1#16))) ∨
    (m.read pc = 0xB5#8 ∧ fetchInstr m pc = .ldaZpX (m.read (pc + 1#16))) ∨
    (m.read pc = 0x20#8 ∧ fetchInstr m pc = .jsr (m.readWord (pc + 1#16))) ∨
    (m.read pc ≠ 0xA9#8 ∧ m.read pc ≠ 0xA5#8 ∧ m.read pc ≠ 0xB5#8 ∧ m.read pc ≠ 0x20#8 ∧
      fetchInstr m pc = .undef (m.read pc)) := by
  unfold fetchInstr
  by_cases h1 : m.read pc = 0xA9#8
  · exact .inl ⟨h1, by rw [h1]; rfl⟩
  by_cases h2 : m.read pc = 0xA5#8
  · exact .inr (.inl ⟨h2, by rw [h2]; rfl⟩)
  by_cases h3 : m.read pc = 0xB5#8
  · exact .inr (.inr (.inl ⟨h3, by rw [h3]; rfl⟩))
  by_cases h4 : m.read pc = 0x20#8
  · exact .inr (.inr (.inr (.inl ⟨h4, by rw [h4, Memory.readWord, add_one_add_one]; rfl⟩)))
  · refine .inr (.inr (.inr (.inr ⟨h1, h2, h3, h4, ?_⟩)))
    simp [decodeBytes, opcodeLdaImm, opcodeLdaZp, opcodeLdaZpX, opcodeJsr, h1, h2, h3, h4]

/-- The three loads; `isLoad_fetchInstr` ties it to the opcode byte. -/
def isLoad (i : Instr) : Bool :=
  match i with
  | .ldaImm _ | .ldaZp _ | .ldaZpX _ => true
  | .jsr _ | .undef _ => false

theorem isLoad_fetchInstr : isLoad (fetchInstr m pc) = true ↔ m.read pc ∈ [0xA5#8, 0xA9#8, 0xB5#8] := by
  obtain ⟨hb, hi⟩ | ⟨hb, hi⟩ | ⟨hb, hi⟩ | ⟨hb, hi⟩ | ⟨h1, h2, h3, -, hi⟩ := fetchInstr_cases m pc
  · simp [hi, hb, isLoad]
  · simp [hi, hb, isLoad]
  · simp [hi, hb, isLoad]
  · simp [hi, hb, isLoad]
  · simp [hi, h1, h2, h3, isLoad]

/-- The fetched instruction's encoding begins with the byte at `PC` (30_encoding.md R50). -/
theorem opcode_fetchInstr : (encode (fetchInstr m pc)).headD 0#8 = m.read pc := by
  obtain ⟨hb, hi⟩ | ⟨hb, hi⟩ | ⟨hb, hi⟩ | ⟨hb, hi⟩ | ⟨-, -, -, -, hi⟩ := fetchInstr_cases m pc
  · rw [hi, hb]; rfl
  · rw [hi, hb]; rfl
  · rw [hi, hb]; rfl
  · rw [hi, hb]; rfl
  · rw [hi]; rfl

theorem fetchInstr_ne_ldaZpX (h : m.read pc ≠ 0xB5#8) (zp : Byte) : fetchInstr m pc ≠ .ldaZpX zp := by
  intro hi
  exact h (by rw [← opcode_fetchInstr, hi]; rfl)

theorem fetchInstr_ne_jsr (h : m.read pc ≠ 0x20#8) (target : Word) : fetchInstr m pc ≠ .jsr target := by
  intro hi
  exact h (by rw [← opcode_fetchInstr, hi]; rfl)

end

/-! ### The step -/

theorem step_eq_of_inRun {s : State} (h : s.InRun) : step s = .next (effect (fetchInstr s.mem s.pc) s) := by
  rw [step_of_inRun s h, exec_eq]

/-- All that a step can answer: an idle core's own state, or the effect of the instruction at `PC`. -/
theorem step_cases {s t : State} (h : step s = .next t) :
    (s.Idle ∧ t = s) ∨ (s.InRun ∧ t = effect (fetchInstr s.mem s.pc) s) := by
  by_cases hr : s.InRun
  · rw [step_eq_of_inRun hr] at h
    cases h; exact .inr ⟨hr, rfl⟩
  · have hi := (idle_iff_not_inRun s).2 hr
    rw [step_of_idle s hi] at h
    cases h; exact .inl ⟨hi, rfl⟩

/-- A change `f` of the state that the dispatch cannot see goes through the step, as `g`, when it goes through the effect of the
instruction at `PC`. -/
theorem step_commutes {f g : State → State} {s : State} (hpc : (f s).pc = s.pc) (hmem : (f s).mem = s.mem)
    (hcyc : (f s).cyc = s.cyc) (hloaded : (f s).budgetLoaded = s.budgetLoaded) (hidle : s.Idle → f s = g s)
    (hrun : s.InRun → effect (fetchInstr s.mem s.pc) (f s) = g (effect (fetchInstr s.mem s.pc) s)) :
    step (f s) = mapNext g (step s) := by
  by_cases hr : s.InRun
  · have hr' : (f s).InRun := by rwa [State.InRun, hcyc, hloaded]
    rw [step_eq_of_inRun hr, step_eq_of_inRun hr', hpc, hmem, hrun hr, mapNext]
  · have hi := (idle_iff_not_inRun s).2 hr
    have hi' : (f s).Idle := by rwa [State.Idle, hcyc, hloaded]
    rw [step_of_idle s hi, step_of_idle _ hi', hidle hi, mapNext]

theorem step_keeps_x (s t : State) (h : step s = .next t) : t.x = s.x := by
  obtain ⟨-, rfl⟩ | ⟨-, rfl⟩ := step_cases h
  · rfl
  · exact effect_x _ _

theorem step_keeps_y (s t : State) (h : step s = .next t) : t.y = s.y := by
  obtain ⟨-, rfl⟩ | ⟨-, rfl⟩ := step_cases h
  · rfl
  · exact effect_y _ _

/-! ### The run loop and the host operations -/

section
variable {α : Type} {f : State → α} (hstep : ∀ s t, step s = .next t → f t = f s)
include hstep

/-- What every step keeps, a run keeps. -/
theorem runLoop_keeps {k : Nat} {s t : State} (h : runLoop k s = .next t) : f t = f s := by
  induction k generalizing s with
  | zero => cases h; rfl
  | succ k ih =>
    by_cases hr : s.InRun
    · have hs := step_eq_of_inRun hr
      rw [runLoop_of_step s k _ hr hs] at h
      exact (ih h).trans (hstep _ _ hs)
    · rw [runLoop_of_idle s _ ((idle_iff_not_inRun s).2 hr)] at h
      cases h; rfl

/-- What every step keeps, and the load of a budget, a change of memory and this Preset too, is kept by each host operation other
than Construct and Reset (60_exceptions.md R119). -/
theorem hostStep_keeps (hload : ∀ (b : Int) (s : State), f (s.loadBudget b) = f s)
    (hmem : ∀ (m : Memory) (s : State), f (s.setMem m) = f s) {op : HostOp} {s t : State}
    (hpreset : ∀ p, op = .preset p → f (preset p s) = f s) (hc : ∀ u, op ≠ .construct u) (hr : op ≠ .reset)
    (h : hostStep op s = .next t) : f t = f s := by
  unfold hostStep at h
  split at h
  · cases h
  cases op with
  | construct u => exact absurd rfl (hc u)
  | reset => exact absurd rfl hr
  | poke addr v => cases h; exact hmem _ s
  | preset p => cases h; exact hpreset p rfl
  | execute budget => exact (runLoop_keeps hstep h).trans (hload budget s)
  | inspect => cases h; rfl

end

theorem preset_x {p : Preset} (s : State) (h : ∀ v, p ≠ .x v) : (preset p s).x = s.x := by
  cases p with
  | x v => exact absurd rfl (h v)
  | flag f v => cases f <;> rfl
  | _ => rfl

theorem preset_y {p : Preset} (s : State) (h : ∀ v, p ≠ .y v) : (preset p s).y = s.y := by
  cases p with
  | y v => exact absurd rfl (h v)
  | flag f v => cases f <;> rfl
  | _ => rfl

end Sys2Proof.Machine

/-! ## What no step reads and what no step writes (10_state.md) -/

namespace Sys2Proof.Machine

/-! ### Changes that go through the effect of an instruction -/

section
variable (i : Instr) (s : State)

/-- The events an instruction emits (43_unknown_opcode.md R102); `effect_withDiags` ties it to the model. -/
def emitted (i : Instr) : List DiagEvent :=
  match i with
  | .undef op => [.decodeFail op]
  | .ldaImm _ | .ldaZp _ | .ldaZpX _ | .jsr _ => []

theorem effect_withDiags (ds : List DiagEvent) :
    effect i (s.withDiags ds) = (effect i s).withDiags (ds ++ emitted i) := by
  cases i with
  | undef op => rfl
  | _ => simp [effect, State.withDiags, emitted]

theorem effect_withY (v : Byte) : effect i { s with y := v } = { effect i s with y := v } := by
  cases i <;> rfl

theorem effect_withInert (e : InertState) : effect i (s.withInert e) = (effect i s).withInert e := by
  cases i <;> rfl

theorem effect_withX (v : Byte) (h : ∀ zp, i ≠ .ldaZpX zp) :
    effect i { s with x := v } = { effect i s with x := v } := by
  cases i with
  | ldaZpX zp => exact absurd rfl (h zp)
  | _ => rfl

/-- A load derives `Z` and `N` anew (41_load.md R85). -/
theorem effect_setLoadFlags_of_isLoad (z n : Bool) (h : isLoad i = true) :
    effect i (s.setLoadFlags z n) = effect i s := by
  cases i with
  | jsr | undef => cases h
  | _ => rfl

theorem effect_setLoadFlags_of_not_isLoad (z n : Bool) (h : ¬ isLoad i = true) :
    effect i (s.setLoadFlags z n) = (effect i s).setLoadFlags z n := by
  cases i with
  | jsr | undef => rfl
  | _ => exact absurd rfl h

/-- A load overwrites `A` and does not read it (41_load.md R86). -/
theorem effect_setA_of_isLoad (v : Byte) (h : isLoad i = true) : effect i (s.setA v) = effect i s := by
  cases i with
  | jsr | undef => cases h
  | _ => rfl

theorem effect_setA_of_not_isLoad (v : Byte) (h : ¬ isLoad i = true) :
    effect i (s.setA v) = (effect i s).setA v := by
  cases i with
  | jsr | undef => rfl
  | _ => exact absurd rfl h

theorem effect_mem_of_ne_jsr (h : ∀ target, i ≠ .jsr target) : (effect i s).mem = s.mem := by
  cases i with
  | jsr target => exact absurd rfl (h target)
  | _ => rfl

end

/-! ### The statements -/

/-- Settles O22: the events a step appends are those of the instruction at `PC`, and none on an idle core. -/
theorem diagnosticsNeverRead : Obligations.DiagnosticsNeverRead := by
  intro s
  by_cases hr : s.InRun
  · refine ⟨emitted (fetchInstr s.mem s.pc), fun ds => ?_⟩
    exact step_commutes (f := (·.withDiags ds)) rfl rfl rfl rfl (fun hi => absurd hr ((idle_iff_not_inRun s).1 hi))
      fun _ => effect_withDiags _ s ds
  · refine ⟨[], fun ds => ?_⟩
    exact step_commutes (f := (·.withDiags ds)) rfl rfl rfl rfl (fun _ => by rw [List.append_nil])
      fun h => absurd h hr

/-- Settles O24: `Y` goes through every instruction unchanged, and so through every run. -/
theorem yNeverReadNorWritten : Obligations.YNeverReadNorWritten := by
  refine ⟨fun v s => ?_, fun _ => rfl, fun op s t hc hr hp h => ?_⟩
  · exact step_commutes (f := fun t => { t with y := v }) rfl rfl rfl rfl (fun _ => rfl)
      fun _ => effect_withY _ s v
  · refine hostStep_keeps (f := State.y) step_keeps_y (fun _ _ => rfl) (fun _ _ => rfl) (fun p hop => ?_) hc hr h
    exact preset_y s fun v hv => hp v (hop.trans (congrArg _ hv))

/-- Settles O25: a load derives `Z` and `N` from the loaded byte, and every other step carries all flags through. -/
theorem flagsNeverRead : Obligations.FlagsNeverRead := by
  refine fun s => ⟨fun e => ?_, fun z n hr hop => ?_, fun z n h => ?_⟩
  · exact step_commutes (f := (·.withInert e)) rfl rfl rfl rfl (fun _ => rfl) fun _ => effect_withInert _ s e
  · have hr' : (s.setLoadFlags z n).InRun := hr
    rw [step_eq_of_inRun hr, step_eq_of_inRun hr', State.setLoadFlags_mem, State.setLoadFlags_pc,
      effect_setLoadFlags_of_isLoad _ _ _ _ ((isLoad_fetchInstr _ _).2 hop)]
  · refine step_commutes (f := (·.setLoadFlags z n)) rfl rfl rfl rfl (fun _ => rfl) fun hr => ?_
    have hop := h.resolve_left fun hi => (idle_iff_not_inRun s).1 hi hr
    exact effect_setLoadFlags_of_not_isLoad _ s z n (mt (isLoad_fetchInstr _ _).1 hop)

/-- Settles O26: a load overwrites `A`, and every other step carries it through. -/
theorem accumulatorWrittenByLoadsOnly : Obligations.AccumulatorWrittenByLoadsOnly := by
  refine ⟨fun v s hr hop => ?_, fun v s hop => ?_, fun _ => rfl⟩
  · have hr' : (s.setA v).InRun := hr
    calc step (s.setA v)
      _ = .next (effect (fetchInstr s.mem s.pc) (s.setA v)) := step_eq_of_inRun hr'
      _ = .next (effect (fetchInstr s.mem s.pc) s) := by
        rw [effect_setA_of_isLoad _ _ _ ((isLoad_fetchInstr _ _).2 hop)]
      _ = step s := (step_eq_of_inRun hr).symm
  · exact step_commutes (f := (·.setA v)) rfl rfl rfl rfl (fun _ => rfl)
      fun _ => effect_setA_of_not_isLoad _ s v (mt (isLoad_fetchInstr _ _).1 hop)

/-- Settles O27: `X` goes through every instruction unchanged, and only the index sum of LDA zero-page,X reads it. -/
theorem xReadByIndexedLoadOnly : Obligations.XReadByIndexedLoadOnly := by
  refine ⟨fun v s hop => ?_, fun zp s => ?_, fun _ => rfl, fun op s t hc hr hp h => ?_⟩
  · exact step_commutes (f := fun t => { t with x := v }) rfl rfl rfl rfl (fun _ => rfl)
      fun _ => effect_withX _ s v (fetchInstr_ne_ldaZpX _ _ hop)
  · refine ⟨effect (.ldaZpX zp) s, exec_eq _ s, ?_, effect_x _ s⟩
    rw [← zeroPageXAddr_eq_ofNat]; rfl
  · refine hostStep_keeps (f := State.x) step_keeps_x (fun _ _ => rfl) (fun _ _ => rfl) (fun p hop => ?_) hc hr h
    exact preset_x s fun v hv => hp v (hop.trans (congrArg _ hv))

/-- Settles O28, by the opcode byte at `PC`. -/
theorem pcSequentialOrJsrTarget : Obligations.PcSequentialOrJsrTarget := by
  intro s t hr h
  rw [step_eq_of_inRun hr] at h
  cases h
  obtain ⟨hb, hi⟩ | ⟨hb, hi⟩ | ⟨hb, hi⟩ | ⟨hb, hi⟩ | ⟨h1, h2, h3, h4, hi⟩ := fetchInstr_cases s.mem s.pc
  · simp [hi, hb, effect]
  · simp [hi, hb, effect]
  · simp [hi, hb, effect]
  · simp [hi, hb, effect]
  · simp [hi, h1, h2, h3, h4, effect]

/-- Settles O29: every instruction keeps `X` and `SP`, and JSR alone stores, two bytes at `SP`. -/
theorem stepKeepsIndexAndStackRegisters : Obligations.StepKeepsIndexAndStackRegisters := by
  intro s t h
  obtain ⟨-, rfl⟩ | ⟨-, rfl⟩ := step_cases h
  · exact ⟨rfl, rfl, fun _ => rfl, fun _ _ _ => rfl⟩
  · exact ⟨effect_x _ s, effect_sp _ s, fun hop => effect_mem_of_ne_jsr _ s (fetchInstr_ne_jsr _ _ hop),
      fun addr => effect_read_of_ne _ s addr⟩

end Sys2Proof.Machine

/-! ## Memory and the order of its bytes (20_memory.md) -/

namespace Sys2Proof.Machine

/-! ### The cells of a canonical memory -/

/-- In a memory of rising addresses a listed byte is the byte its address reads as. -/
theorem Memory.lookup_of_mem {m : Memory} (hm : m.Pairwise (fun p q => p.1 < q.1)) {c : Host.Cell} (hc : c ∈ m) :
    m.lookup c.1 = c.2 := by
  induction m with
  | nil => cases hc
  | cons d rest ih =>
    obtain ⟨hd, hrest⟩ := List.pairwise_cons.1 hm
    obtain rfl | hc := List.mem_cons.1 hc
    · simp [Memory.lookup]
    · rw [Memory.lookup, if_neg (hd c hc).ne, ih hrest hc]

/-- An address that reads as anything but the unlisted byte is listed with that byte. -/
theorem Memory.mem_of_lookup {m : Memory} {k : Nat} (h : m.lookup k ≠ Config.unlistedByte) : (k, m.lookup k) ∈ m := by
  induction m with
  | nil => exact absurd rfl h
  | cons d rest ih =>
    rw [Memory.lookup] at h ⊢
    split at h
    · next hd => subst hd; rw [if_pos rfl]; exact List.mem_cons_self
    · next hd => rw [if_neg hd]; exact List.mem_cons_of_mem d (ih h)

/-- The cells of a canonical memory, by its reads alone: the addresses in range that do not read as the unlisted byte. -/
theorem Memory.mem_iff_read {m : Memory} (hm : m.wf) (c : Host.Cell) :
    c ∈ m ↔ c.1 < Config.memSize ∧ c.2 ≠ Config.unlistedByte ∧ m.read (BitVec.ofNat 16 c.1) = c.2 := by
  have hread (hk : c.1 < Config.memSize) : m.read (BitVec.ofNat 16 c.1) = m.lookup c.1 := by
    rw [Memory.read, BitVec.toNat_ofNat, Nat.mod_eq_of_lt hk]
  constructor
  · intro hc
    obtain ⟨hk, hv⟩ := hm.2 c hc
    exact ⟨hk, hv, (hread hk).trans (Memory.lookup_of_mem hm.1 hc)⟩
  · rintro ⟨hk, hv, h⟩
    rw [hread hk] at h
    have hmem := Memory.mem_of_lookup (h.trans_ne hv)
    rwa [h] at hmem

/-! ### Byte order -/

theorem lowByte_toNat (v : Word) : (lowByte v).toNat = v.toNat % 256 := by simp [lowByte]

theorem highByte_toNat (v : Word) : (highByte v).toNat = v.toNat / 256 := by
  have hv : v.toNat / 256 < 256 := Nat.div_lt_of_lt_mul v.isLt
  simp [highByte, Nat.shiftRight_eq_div_pow, Nat.mod_eq_of_lt hv]

/-- The word `(hi, lo)` in integer arithmetic (20_memory.md R36). -/
theorem joinWord_eq_ofNat (lo hi : Byte) : joinWord lo hi = BitVec.ofNat 16 (hi.toNat * 256 + lo.toNat) := by
  apply BitVec.eq_of_toNat_eq
  have hlo := lo.isLt
  have hhi := hi.isLt
  rw [BitVec.toNat_ofNat, Nat.mod_eq_of_lt (by omega), joinWord, BitVec.toNat_append,
    ← Nat.shiftLeft_add_eq_or_of_lt hlo, Nat.shiftLeft_eq]

/-! ### The data read of a load -/

theorem zeroPageAddr_lt (zp : Byte) : (zeroPageAddr zp).toNat < 256 := by
  have h := zp.isLt
  simp only [zeroPageAddr, BitVec.toNat_setWidth]
  omega

theorem zeroPageXAddr_lt (zp x : Byte) : (zeroPageXAddr zp x).toNat < 256 := zeroPageAddr_lt (zp + x)

theorem isLoad_of_loadedByte {i : Instr} {s : State} {v : Byte} (h : loadedByte i s = some v) : isLoad i = true := by
  cases i with
  | jsr | undef => cases h
  | _ => rfl

/-- A load goes through a change of memory that keeps the zero page (20_memory.md R30, 41_load.md R91). -/
theorem effect_setMem_of_isLoad {i : Instr} (s : State) {m : Memory} (h : isLoad i = true)
    (hm : ∀ addr : Word, addr.toNat < 256 → m.read addr = s.mem.read addr) :
    effect i (s.setMem m) = (effect i s).setMem m := by
  cases i with
  | ldaImm imm => rfl
  | ldaZp zp =>
    have hzp := hm _ (zeroPageAddr_lt zp)
    simp [effect, State.setMem, hzp]
  | ldaZpX zp =>
    have hzp := hm _ (zeroPageXAddr_lt zp s.x)
    simp [effect, State.setMem, hzp]
  | jsr | undef => cases h

/-! ### Poke and Preset on an idle core -/

theorem hostStep_poke {s : State} (h : s.Idle) (addr : Word) (v : Byte) :
    hostStep (.poke addr v) s = .next (poke addr v s) := by
  simp [hostStep, inRun_eq_false s h]

theorem hostStep_preset {s : State} (h : s.Idle) (p : Preset) : hostStep (.preset p) s = .next (preset p s) := by
  simp [hostStep, inRun_eq_false s h]

/-! ### The statements -/

/-- Settles O14: the effective address of each load that reads memory is below 256. -/
theorem loadsReadOnlyZeroPage : Obligations.LoadsReadOnlyZeroPage := by
  intro i s t m v hv hm h
  rw [exec_eq] at h ⊢
  cases h
  rw [effect_setMem_of_isLoad s (isLoad_of_loadedByte hv) hm]

/-- Settles O19: the opcode and its first operand byte are the two bytes the JSR stored, and the third is outside them. -/
theorem fetchSeesCallWrite : Obligations.FetchSeesCallWrite := by
  rintro _ s t h rfl
  rw [exec_eq] at h
  cases h
  have hthird : s.sp + 2#16 ≠ s.sp + 1#16 := by bv_omega
  simp [fetchInstr, effect, Memory.read_writeWord, hthird]

/-- Settles O33: the reads determine the cells, and two lists of rising addresses with the same cells are equal. -/
theorem canonicalMemoryIsUnique : Obligations.CanonicalMemoryIsUnique := by
  intro m₁ m₂ h₁ h₂ hread
  refine h₁.1.eq_of_mem_iff h₂.1 fun c => ?_
  rw [Memory.mem_iff_read h₁, Memory.mem_iff_read h₂, hread]

/-- Settles O35, by the reads after a word write and the two bytes of a word as integers. -/
theorem wordsAreLittleEndian : Obligations.WordsAreLittleEndian := by
  refine ⟨fun addr v s => ?_, fun lo hi => congrArg Instr.jsr (joinWord_eq_ofNat lo hi)⟩
  rw [writeWord_eq]
  refine ⟨?_, ?_, fun other h h' => ?_, rfl⟩
  · simp [Memory.read_writeWord, lowByte_toNat]
  · simp [Memory.read_writeWord, highByte_toNat]
  · simp [Memory.read_writeWord, h, h']

/-- Settles O44: the Poke is one write of memory, each Preset one field of the record. -/
theorem pokeAndPresetWriteOneThing : Obligations.PokeAndPresetWriteOneThing := by
  intro s h
  have hp := hostStep_preset h
  refine ⟨fun addr v => ?_, fun v => hp (.pc v), fun v => hp (.sp v), fun v => hp (.a v), fun v => hp (.x v),
    fun v => hp (.y v), fun v => hp (.flag .carry v), fun v => hp (.flag .zero v),
    fun v => hp (.flag .interruptDisable v), fun v => hp (.flag .decimalMode v), fun v => hp (.flag .brk v),
    fun v => hp (.flag .overflow v), fun v => hp (.flag .negative v)⟩
  exact ⟨s.mem.write addr v, hostStep_poke h addr v, Memory.read_write_same _ _ _,
    fun other hne => Memory.read_write_ne _ _ _ _ hne⟩

end Sys2Proof.Machine

/-! ## The encoding, the dispatch and the undefined opcodes (30_encoding.md, 43_unknown_opcode.md) -/

namespace Sys2Proof

/-! ### The two bytes of a word -/

theorem joinWord_lowByte_highByte (v : Word) : joinWord (lowByte v) (highByte v) = v := by
  rw [Machine.joinWord_eq_ofNat, Machine.lowByte_toNat, Machine.highByte_toNat, Nat.div_add_mod', BitVec.ofNat_toNat,
    BitVec.setWidth_eq]

theorem lowByte_joinWord (lo hi : Byte) : lowByte (joinWord lo hi) = lo := BitVec.setWidth_append_eq_right

theorem highByte_joinWord (lo hi : Byte) : highByte (joinWord lo hi) = hi := by
  apply BitVec.eq_of_toNat_eq
  have hlo := lo.isLt
  have hhi := hi.isLt
  rw [Machine.highByte_toNat, Machine.joinWord_eq_ofNat, BitVec.toNat_ofNat]
  omega

/-! ### The decoder, by the opcode byte -/

section
variable (b lo hi : Byte) (rest : List Byte)

theorem decode_ldaImm : decode (opcodeLdaImm :: b :: rest) = .ok (.ldaImm b, rest) := by
  simp [decode, opcodeLength, decodeBytes, opcodeLdaImm, opcodeJsr]

theorem decode_ldaZp : decode (opcodeLdaZp :: b :: rest) = .ok (.ldaZp b, rest) := by
  simp [decode, opcodeLength, decodeBytes, opcodeLdaImm, opcodeLdaZp, opcodeJsr]

theorem decode_ldaZpX : decode (opcodeLdaZpX :: b :: rest) = .ok (.ldaZpX b, rest) := by
  simp [decode, opcodeLength, decodeBytes, opcodeLdaImm, opcodeLdaZp, opcodeLdaZpX, opcodeJsr]

theorem decode_jsr : decode (opcodeJsr :: lo :: hi :: rest) = .ok (.jsr (joinWord lo hi), rest) := by
  simp [decode, opcodeLength, decodeBytes, opcodeLdaImm, opcodeLdaZp, opcodeLdaZpX, opcodeJsr]

end

theorem isDefinedOpcode_eq_false_iff (op : Byte) :
    isDefinedOpcode op = false ↔ op ≠ opcodeLdaImm ∧ op ≠ opcodeLdaZp ∧ op ≠ opcodeLdaZpX ∧ op ≠ opcodeJsr := by
  simp [isDefinedOpcode, and_assoc]

theorem wf_undef_iff (op : Byte) : (Instr.undef op).wf = true ↔ isDefinedOpcode op = false := by
  simp [Instr.wf]

theorem decodeBytes_undef {op : Byte} (h : isDefinedOpcode op = false) (b1 b2 : Byte) :
    decodeBytes op b1 b2 = .undef op := by
  obtain ⟨h1, h2, h3, h4⟩ := (isDefinedOpcode_eq_false_iff op).1 h
  simp [decodeBytes, h1, h2, h3, h4]

theorem decode_undef {op : Byte} (h : isDefinedOpcode op = false) (rest : List Byte) :
    decode (op :: rest) = .ok (.undef op, rest) := by
  obtain ⟨h1, h2, h3, h4⟩ := (isDefinedOpcode_eq_false_iff op).1 h
  simp [decode, opcodeLength, decodeBytes_undef h, h1, h2, h3, h4]

/-- What the decoder accepts behind an opcode byte with one operand byte (30_encoding.md R51, F2). -/
theorem decode_cases_of_oneOperand {op : Byte} {f : Byte → Instr} {tail rest : List Byte} {i : Instr}
    (hlen : opcodeLength op = 2) (hf : ∀ b tail, decode (op :: b :: tail) = .ok (f b, tail))
    (h : decode (op :: tail) = .ok (i, rest)) : ∃ b, tail = b :: rest ∧ i = f b := by
  cases tail with
  | nil => simp [decode, hlen] at h
  | cons b tail =>
    rw [hf] at h
    cases h
    exact ⟨b, rfl, rfl⟩

/-- All that the decoder accepts: the three formats of R51 under the opcode bytes of R53. -/
theorem decode_cases {bytes rest : List Byte} {i : Instr} (h : decode bytes = .ok (i, rest)) :
    (∃ b, bytes = opcodeLdaImm :: b :: rest ∧ i = .ldaImm b) ∨
    (∃ b, bytes = opcodeLdaZp :: b :: rest ∧ i = .ldaZp b) ∨
    (∃ b, bytes = opcodeLdaZpX :: b :: rest ∧ i = .ldaZpX b) ∨
    (∃ lo hi, bytes = opcodeJsr :: lo :: hi :: rest ∧ i = .jsr (joinWord lo hi)) ∨
    (∃ op, isDefinedOpcode op = false ∧ bytes = op :: rest ∧ i = .undef op) := by
  rcases bytes with _ | ⟨op, tail⟩
  · cases h
  by_cases h1 : op = opcodeLdaImm
  · subst h1
    obtain ⟨b, rfl, hi⟩ := decode_cases_of_oneOperand rfl decode_ldaImm h
    exact .inl ⟨b, rfl, hi⟩
  by_cases h2 : op = opcodeLdaZp
  · subst h2
    obtain ⟨b, rfl, hi⟩ := decode_cases_of_oneOperand rfl decode_ldaZp h
    exact .inr (.inl ⟨b, rfl, hi⟩)
  by_cases h3 : op = opcodeLdaZpX
  · subst h3
    obtain ⟨b, rfl, hi⟩ := decode_cases_of_oneOperand rfl decode_ldaZpX h
    exact .inr (.inr (.inl ⟨b, rfl, hi⟩))
  by_cases h4 : op = opcodeJsr
  · subst h4
    rcases tail with _ | ⟨lo, _ | ⟨hi, tail⟩⟩
    · cases h
    · cases h
    · rw [decode_jsr] at h
      cases h
      exact .inr (.inr (.inr (.inl ⟨lo, hi, rfl, rfl⟩)))
  · have hop := (isDefinedOpcode_eq_false_iff op).2 ⟨h1, h2, h3, h4⟩
    rw [decode_undef hop] at h
    cases h
    exact .inr (.inr (.inr (.inr ⟨op, hop, rfl, rfl⟩)))

/-! ### The statements about the decoder -/

/-- Settles O3, by the constructor; of JSR, a word is its two bytes joined. -/
theorem decodeOfEncode : Obligations.DecodeOfEncode := by
  intro i rest hwf
  cases i with
  | ldaImm imm => exact decode_ldaImm imm rest
  | ldaZp zp => exact decode_ldaZp zp rest
  | ldaZpX zp => exact decode_ldaZpX zp rest
  | jsr target =>
    calc decode (encode (.jsr target) ++ rest)
      _ = .ok (.jsr (joinWord (lowByte target) (highByte target)), rest) := decode_jsr _ _ rest
      _ = .ok (.jsr target, rest) := by rw [joinWord_lowByte_highByte]
  | undef op => exact decode_undef ((wf_undef_iff op).1 hwf) rest

/-- Settles O2, by the decoder's equation for each format; the two operand bytes of JSR are those its word is encoded in. -/
theorem formatsDecode : Obligations.FormatsDecode := by
  refine ⟨decode_ldaImm, decode_ldaZp, decode_ldaZpX, fun t rest => ?_, fun op rest h1 h2 h3 h4 => ?_⟩
  · rw [← Machine.lowByte_toNat, ← Machine.highByte_toNat]
    simp only [BitVec.ofNat_toNat, BitVec.setWidth_eq]
    exact decodeOfEncode (.jsr t) rest rfl
  · exact decode_undef ((isDefinedOpcode_eq_false_iff op).2 ⟨h3, h2, h4, h1⟩) rest

/-- Settles O4, by what the decoder accepts; of JSR, the two bytes of a joined word are those joined. -/
theorem decodeAcceptsOnlyEncodings : Obligations.DecodeAcceptsOnlyEncodings := by
  intro bytes rest i h
  obtain ⟨b, rfl, rfl⟩ | ⟨b, rfl, rfl⟩ | ⟨b, rfl, rfl⟩ | ⟨lo, hi, rfl, rfl⟩ | ⟨op, hop, rfl, rfl⟩ := decode_cases h
  · exact ⟨rfl, rfl⟩
  · exact ⟨rfl, rfl⟩
  · exact ⟨rfl, rfl⟩
  · exact ⟨rfl, by rw [encode, lowByte_joinWord, highByte_joinWord]; rfl⟩
  · exact ⟨(wf_undef_iff op).2 hop, rfl⟩

end Sys2Proof

namespace Sys2Proof.Machine

/-! ### The instruction at `PC` -/

/-- The instruction whose encoding stands at `PC` is the one fetched (30_encoding.md R50). -/
theorem fetchInstr_of_holds {m : Memory} {pc : Word} {i : Instr} (hwf : i.wf = true) (h : m.Holds pc (encode i)) :
    fetchInstr m pc = i := by
  cases i with
  | ldaImm imm =>
    obtain ⟨hop, himm, -⟩ := h
    rw [fetchInstr, hop, himm]; rfl
  | ldaZp zp =>
    obtain ⟨hop, hzp, -⟩ := h
    rw [fetchInstr, hop, hzp]; rfl
  | ldaZpX zp =>
    obtain ⟨hop, hzp, -⟩ := h
    rw [fetchInstr, hop, hzp]; rfl
  | jsr target =>
    obtain ⟨hop, hlo, hhi, -⟩ := h
    rw [add_one_add_one] at hhi
    rw [fetchInstr, hop, hlo, hhi]
    exact congrArg Instr.jsr (joinWord_lowByte_highByte target)
  | undef op =>
    obtain ⟨hop, -⟩ := h
    rw [fetchInstr, hop, decodeBytes_undef ((wf_undef_iff op).1 hwf)]

theorem fetchInstr_eq_undef {m : Memory} {pc : Word} (h : m.read pc ∉ [0x20#8, 0xA5#8, 0xA9#8, 0xB5#8]) :
    fetchInstr m pc = .undef (m.read pc) := by
  obtain ⟨hb, -⟩ | ⟨hb, -⟩ | ⟨hb, -⟩ | ⟨hb, -⟩ | ⟨-, -, -, -, hi⟩ := fetchInstr_cases m pc
  · exact absurd (by simp [hb]) h
  · exact absurd (by simp [hb]) h
  · exact absurd (by simp [hb]) h
  · exact absurd (by simp [hb]) h
  · exact hi

/-- A step over an undefined opcode: one byte, one cycle-unit, one diagnostic (43_unknown_opcode.md R100). -/
theorem step_eq_of_undef {s : State} (hr : s.InRun) (h : s.mem.read s.pc ∉ [0x20#8, 0xA5#8, 0xA9#8, 0xB5#8]) :
    step s = .next (effect (.undef (s.mem.read s.pc)) s) := by
  rw [step_eq_of_inRun hr, fetchInstr_eq_undef h]

/-! ### The run over undefined opcodes -/

/-- Where every byte is an undefined opcode, the run loop takes as many steps as cycle-units remain. -/
theorem runLoop_of_undef {n : Nat} {s : State} (hmem : ∀ addr : Word, s.mem.read addr ∉ [0x20#8, 0xA5#8, 0xA9#8, 0xB5#8])
    (hloaded : s.budgetLoaded = true) (hcyc : s.cyc = n) :
    runLoop n s = .next { s with
      pc := s.pc + BitVec.ofNat 16 n, cyc := 0, diags := s.diags ++ diagsFrom s.mem s.pc n } := by
  induction n generalizing s with
  | zero =>
    have hzero : 0 = s.cyc := hcyc.symm
    simp [runLoop, diagsFrom, hzero]
  | succ k ih =>
    have hr : s.InRun := ⟨hloaded, by omega⟩
    have hpc : s.pc + 1#16 + BitVec.ofNat 16 k = s.pc + BitVec.ofNat 16 (k + 1) := by
      rw [BitVec.add_assoc, ← BitVec.ofNat_add, Nat.add_comm]
    have hnext : s.cyc - 1 = k := by omega
    rw [runLoop_of_step s k _ hr (step_eq_of_undef hr (hmem s.pc)),
      ih (s := effect (.undef (s.mem.read s.pc)) s) hmem hloaded hnext]
    simp [effect, diagsFrom, hpc]

/-! ### The statements about the step -/

/-- Settles O7, by the opcode byte at `PC`. -/
theorem dispatchByOpcodeByte : Obligations.DispatchByOpcodeByte := by
  intro s hr
  refine ⟨?_, _, step_eq_of_inRun hr⟩
  rw [step_of_inRun s hr]
  obtain ⟨hb, hi⟩ | ⟨hb, hi⟩ | ⟨hb, hi⟩ | ⟨hb, hi⟩ | ⟨h1, h2, h3, h4, hi⟩ := fetchInstr_cases s.mem s.pc
  · simp [hi, hb]
  · simp [hi, hb]
  · simp [hi, hb]
  · simp [hi, hb]
  · simp [hi, h1, h2, h3, h4]

/-- Settles O23: the run loop from the state with the budget loaded. -/
theorem undefinedRunAdvancesByBudget : Obligations.UndefinedRunAdvancesByBudget := by
  intro n s hmem
  exact runLoop_of_undef (s := s.loadBudget n) hmem rfl rfl

/-- Settles O5: the instruction whose bytes stand at `PC` is the one fetched. -/
theorem stepRunsDecodedInstruction : Obligations.StepRunsDecodedInstruction := by
  intro i s hwf hr h
  rw [step_of_inRun s hr, fetchInstr_of_holds hwf h]

/-- Settles O20, by the effect of an undefined opcode. -/
theorem undefinedOpcodeResult : Obligations.UndefinedOpcodeResult := by
  refine ⟨fun op => exec_eq (.undef op), ?_⟩
  rintro _ s hr rfl h1 h2 h3 h4
  exact step_eq_of_undef hr (by simp [h1, h2, h3, h4])

end Sys2Proof.Machine

/-! ## The cycle-charged step (40_execute_cycle.md) -/

namespace Sys2Proof.Machine

/-! ### The primitives -/

/-- The value of `(hi, lo)` (20_memory.md R36). -/
theorem joinWord_toNat (lo hi : Byte) : (joinWord lo hi).toNat = lo.toNat + 256 * hi.toNat := by
  have hlo := lo.isLt
  have hhi := hi.isLt
  rw [joinWord_eq_ofNat, BitVec.toNat_ofNat]
  omega

/-- A FetchWord leaves the state that two FetchBytes leave (40_execute_cycle.md R66). -/
theorem fetchWord_snd (s : State) : (fetchWord s).2 = (fetchByte (fetchByte s).2).2 := by
  simp [fetchWord_eq, fetchByte_eq, add_one_add_one, Int.sub_sub]

/-! ### The pseudocode of Step -/

namespace Pseudocode

variable (s : State)

/-! What each handler leaves once the opcode byte is fetched is the effect of the instruction with the operands at `PC + 1`. -/

theorem ldaImmHandler_eq : ldaImmHandler (fetchByte s).2 = effect (.ldaImm (s.mem.read (s.pc + 1#16))) s := by
  change loadAccumulator (fetchByte (fetchByte s).2) = _
  simp [fetchByte_eq, loadAccumulator_eq, effect, add_one_add_one, Int.sub_sub]

theorem ldaZpHandler_eq : ldaZpHandler (fetchByte s).2 = effect (.ldaZp (s.mem.read (s.pc + 1#16))) s := by
  change loadAccumulator (readByte _ (fetchByte (fetchByte s).2).2) = _
  simp [fetchByte_eq, readByte_eq, loadAccumulator_eq, effect, add_one_add_one, Int.sub_sub]

theorem ldaZpXHandler_eq : ldaZpXHandler (fetchByte s).2 = effect (.ldaZpX (s.mem.read (s.pc + 1#16))) s := by
  change loadAccumulator (readByte (zeroPageXAddr _ _) (charge 1 (fetchByte (fetchByte s).2).2)) = _
  simp [fetchByte_eq, charge_eq, readByte_eq, loadAccumulator_eq, effect, add_one_add_one, Int.sub_sub]

theorem jsrHandler_eq : jsrHandler (fetchByte s).2 = effect (.jsr (s.mem.readWord (s.pc + 1#16))) s := by
  have past : s.pc + 1#16 + 2#16 - 1#16 = s.pc + 2#16 := by bv_omega
  change callSubroutine (fetchWord (fetchByte s).2) = _
  simp [fetchByte_eq, fetchWord_eq, callSubroutine_eq, effect, past, Int.sub_sub]

theorem unknownHandler_eq (op : Byte) : unknownHandler op (fetchByte s).2 = effect (.undef op) s := rfl

/-- The pseudocode of Step leaves the effect of the instruction at `PC` (40_execute_cycle.md R72, R73). -/
theorem fetchAndDispatch_eq : fetchAndDispatch s = effect (fetchInstr s.mem s.pc) s := by
  change dispatch (s.mem.read s.pc) (fetchByte s).2 = _
  obtain ⟨hb, hi⟩ | ⟨hb, hi⟩ | ⟨hb, hi⟩ | ⟨hb, hi⟩ | ⟨h1, h2, h3, h4, hi⟩ := fetchInstr_cases s.mem s.pc
  · rw [hi, hb, ← ldaImmHandler_eq]; rfl
  · rw [hi, hb, ← ldaZpHandler_eq]; rfl
  · rw [hi, hb, ← ldaZpXHandler_eq]; rfl
  · rw [hi, hb, ← jsrHandler_eq]; rfl
  · rw [hi, ← unknownHandler_eq]; simp [dispatch, h1, h2, h3, h4]

end Pseudocode

/-! ### The cost of an instruction -/

/-- What the primitives of a meaning charge adds up to the cost of the table (40_execute_cycle.md R77, R78). -/
@[simp] theorem effect_cyc (i : Instr) (s : State) : (effect i s).cyc = s.cyc - tableCost i := by cases i <;> rfl

theorem one_le_tableCost (i : Instr) : 1 ≤ tableCost i := by cases i <;> simp [tableCost]

theorem tableCost_le_six (i : Instr) : tableCost i ≤ 6 := by cases i <;> simp [tableCost]

/-! ### The statements -/

/-- Settles O8: both the step and the pseudocode leave the effect of the instruction at `PC`. -/
theorem stepRefinesPseudocode : Obligations.StepRefinesPseudocode := by
  intro s hr
  rw [step_eq_of_inRun hr, Pseudocode.fetchAndDispatch_eq]

/-- Settles O34, by the equations of the primitives and the value of a word's two bytes. -/
theorem fetchPrimitives : Obligations.FetchPrimitives := by
  intro s
  exact ⟨fetchByte_eq s, joinWord_toNat _ _, fetchWord_snd s, readByte_eq s, charge_eq s⟩

/-- Settles O36, by the table's rows and the charge of every effect. -/
theorem costsAreConstant : Obligations.CostsAreConstant := by
  refine ⟨fun _ => ⟨rfl, rfl⟩, fun _ => ⟨rfl, rfl⟩, fun _ => ⟨rfl, rfl⟩, fun _ => ⟨rfl, rfl⟩, fun _ => ⟨rfl, rfl⟩, ?_⟩
  exact fun i s => ⟨effect i s, exec_eq i s, effect_cyc i s⟩

/-- Settles O37: the cost of the instruction at `PC` lies between 1 and 6. -/
theorem stepLowersCycOneToSix : Obligations.StepLowersCycOneToSix := by
  intro s hr
  refine ⟨_, step_eq_of_inRun hr, ?_⟩
  rw [effect_cyc, sub_sub_cancel]
  exact ⟨one_le_tableCost _, tableCost_le_six _⟩

/-- Settles O38: the step is the effect of the whole instruction, and the state it leaves is idle, so the loop ends there. -/
theorem overrunCompletesThenHalts : Obligations.OverrunCompletesThenHalts := by
  intro i s hwf hholds hr hcost
  have hstep : step s = .next (effect i s) := (stepRunsDecodedInstruction i s hwf hr hholds).trans (exec_eq i s)
  have hcyc : (effect i s).cyc ≤ 0 := by rw [effect_cyc]; omega
  refine ⟨effect i s, exec_eq i s, hstep, effect_cyc i s, hcyc, fun fuel => ?_⟩
  rw [runLoop_of_step s fuel _ hr hstep, runLoop_of_idle _ fuel (.inr hcyc)]

end Sys2Proof.Machine

/-! ## The loads (41_load.md) -/

namespace Sys2Proof.Machine

/-! ### The flags of a load -/

theorem zeroDetect_eq_decide (v : Byte) : zeroDetect v = decide (v.toNat = 0) := by
  rw [Bool.eq_iff_iff, zeroDetect, beq_iff_eq, decide_eq_true_iff, BitVec.toNat_eq]
  rfl

/-- Bit 7 is set from 0x80 on (41_load.md R85). -/
theorem signDetect_eq_decide (v : Byte) : signDetect v = decide (128 ≤ v.toNat) := BitVec.msb_eq_decide v

/-- No byte is both zero and negative (41_load.md R85). -/
theorem not_zeroDetect_and_signDetect (v : Byte) : ¬ (zeroDetect v = true ∧ signDetect v = true) := by
  rw [zeroDetect_eq_decide, signDetect_eq_decide, decide_eq_true_iff, decide_eq_true_iff]
  omega

/-! ### The next state of a load -/

/-- The zero-extended operand in integer arithmetic (41_load.md R88). -/
theorem zeroPageAddr_eq_ofNat (zp : Byte) : zeroPageAddr zp = BitVec.ofNat 16 zp.toNat :=
  (BitVec.ofNat_toNat 16 zp).symm

/-- What the three loads have in common (41_load.md R86): each puts the loaded byte into `A`, derives `Z` and `N` from it, moves `PC`
past its two bytes and charges its row of the table. -/
theorem exec_of_loadedByte {i : Instr} {s : State} {v : Byte} (h : loadedByte i s = some v) :
    exec i s = .next { s with
      a := v, flagZ := zeroDetect v, flagN := signDetect v, pc := s.pc + 2#16, cyc := s.cyc - tableCost i } := by
  rw [exec_eq]
  cases i with
  | ldaImm imm => cases h; rfl
  | ldaZp zp =>
    rw [loadedByte, ← zeroPageAddr_eq_ofNat] at h
    cases h; rfl
  | ldaZpX zp =>
    rw [loadedByte, ← zeroPageXAddr_eq_ofNat] at h
    cases h; rfl
  | jsr | undef => cases h

/-! ### The statements -/

/-- Settles O13: the next state of a load by its fields, and the flags that do not influence it. -/
theorem loadsFrame : Obligations.LoadsFrame := by
  intro i s v h
  have ht := exec_of_loadedByte h
  refine ⟨_, ht, rfl, rfl, rfl, rfl, rfl, rfl, rfl, rfl, rfl, rfl, rfl, rfl, rfl, fun _ => rfl, rfl, fun e z n => ?_⟩
  rw [exec_eq] at ht ⊢
  rw [effect_setLoadFlags_of_isLoad _ _ z n (isLoad_of_loadedByte h), effect_withInert, Host.Outcome.next.inj ht]

/-- Settles O9: zero and sign detect in integer arithmetic; a load derives the flags of the state that holds the loaded byte. -/
theorem loadFlagsDerived : Obligations.LoadFlagsDerived := by
  refine ⟨fun s => ⟨?_, rfl, not_zeroDetect_and_signDetect s.a⟩, fun i s v h => ?_⟩
  · rw [← zeroDetect_eq_decide, ← signDetect_eq_decide]; rfl
  · exact ⟨{ s with a := v, pc := s.pc + 2#16, cyc := s.cyc - tableCost i }, rfl, exec_of_loadedByte h⟩

/-- Settles O10: the loaded byte is the operand. -/
theorem ldaImmediateResult : Obligations.LdaImmediateResult := by
  refine ⟨fun v s => exec_of_loadedByte rfl, fun v s hr hop hv => ?_⟩
  rw [stepRunsDecodedInstruction (.ldaImm v) s rfl hr ⟨hop, hv, trivial⟩]
  exact exec_of_loadedByte rfl

/-- Settles O11: the loaded byte is the one at the zero-extended operand. -/
theorem ldaZeroPageResult : Obligations.LdaZeroPageResult := by
  refine ⟨fun zp v s hv => exec_of_loadedByte (congrArg some hv), fun zp v s hr hop hzp hv => ?_⟩
  rw [stepRunsDecodedInstruction (.ldaZp zp) s rfl hr ⟨hop, hzp, trivial⟩]
  exact exec_of_loadedByte (congrArg some hv)

/-- Settles O12: the loaded byte is the one at the index sum modulo 256. -/
theorem ldaZeroPageXResult : Obligations.LdaZeroPageXResult := by
  refine ⟨fun zp v s hv => exec_of_loadedByte (congrArg some hv), fun zp v s hr hop hzp hv => ?_⟩
  rw [stepRunsDecodedInstruction (.ldaZpX zp) s rfl hr ⟨hop, hzp, trivial⟩]
  exact exec_of_loadedByte (congrArg some hv)

end Sys2Proof.Machine

/-! ## The call (42_jsr.md) -/

namespace Sys2Proof.Machine

/-- The meaning of JSR as one record update (42_jsr.md R95). -/
theorem exec_jsr (target : Word) (s : State) : exec (.jsr target) s =
    .next { s with pc := target, mem := s.mem.writeWord s.sp (s.pc + 2#16), cyc := s.cyc - 6 } :=
  exec_eq (.jsr target) s

/-- A JSR stands at an address that reads as its opcode and then as the two bytes of its target, the low one first (30_encoding.md
R51, R53). -/
theorem Memory.holds_encode_jsr {m : Memory} {pc target : Word} (hop : m.read pc = 0x20#8)
    (hlo : (m.read (pc + 1#16)).toNat = target.toNat % 256) (hhi : (m.read (pc + 2#16)).toNat = target.toNat / 256) :
    m.Holds pc (encode (.jsr target)) := by
  have hlo' : m.read (pc + 1#16) = lowByte target := BitVec.eq_of_toNat_eq (hlo.trans (lowByte_toNat target).symm)
  have hhi' : m.read (pc + 2#16) = highByte target := BitVec.eq_of_toNat_eq (hhi.trans (highByte_toNat target).symm)
  rw [← add_one_add_one] at hhi'
  exact ⟨hop, hlo', hhi', trivial⟩

/-! ### The statements -/

/-- Settles O17: the next state by its fields, and the two bytes a word write can change. -/
theorem jsrFrame : Obligations.JsrFrame := by
  intro target s
  refine ⟨_, exec_eq _ s, rfl, rfl, rfl, rfl, rfl, rfl, rfl, rfl, rfl, rfl, rfl, rfl, rfl, fun addr h h' => ?_⟩
  exact effect_read_of_ne _ s addr h h'

/-- Settles O15: the effect of JSR, and the step as `exec` of the JSR whose bytes stand at `PC`. -/
theorem jsrResult : Obligations.JsrResult := by
  refine ⟨exec_jsr, fun target s hr hop hlo hhi => ?_⟩
  rw [stepRunsDecodedInstruction (.jsr target) s rfl hr (Memory.holds_encode_jsr hop hlo hhi)]
  exact exec_jsr target s

/-- Settles O16, by the reads after the word write at `SP`. -/
theorem jsrReturnWord : Obligations.JsrReturnWord := by
  intro target s
  have hnext : s.pc + 2#16 + 1#16 = s.pc + 3#16 := by bv_omega
  refine ⟨_, exec_jsr target s, rfl, ?_, ?_, ?_⟩
  · simp [Memory.read_writeWord, lowByte_toNat]
  · simp [Memory.read_writeWord, highByte_toNat]
  · rw [Memory.readWord_writeWord, hnext]; rfl

end Sys2Proof.Machine

/-! ## The diagnostics and the host interface (60_exceptions.md) -/

namespace Sys2Proof.Machine

/-! ### The diagnostics of a step -/

theorem effect_diags (i : Instr) (s : State) : (effect i s).diags = s.diags ++ emitted i := by
  cases i with
  | undef op => rfl
  | _ => exact (List.append_nil s.diags).symm

/-- The instruction at `PC` emits an event exactly when its opcode byte has no handler (43_unknown_opcode.md R101, R102). -/
theorem emitted_fetchInstr (m : Memory) (pc : Word) : emitted (fetchInstr m pc) =
    if m.read pc ∈ [0x20#8, 0xA5#8, 0xA9#8, 0xB5#8] then [] else [.decodeFail (m.read pc)] := by
  obtain ⟨hb, hi⟩ | ⟨hb, hi⟩ | ⟨hb, hi⟩ | ⟨hb, hi⟩ | ⟨h1, h2, h3, h4, hi⟩ := fetchInstr_cases m pc
  · simp [hi, hb, emitted]
  · simp [hi, hb, emitted]
  · simp [hi, hb, emitted]
  · simp [hi, hb, emitted]
  · simp [hi, h1, h2, h3, h4, emitted]

/-! ### The run that Execute starts -/

/-- Every instruction keeps the canonical form of memory; only JSR stores. -/
theorem effect_keeps_wf (i : Instr) {s : State} (h : s.mem.wf) : (effect i s).mem.wf := by
  cases i with
  | jsr target => exact Memory.wf_writeWord _ _ _ h
  | _ => exact h

/-- As many steps as cycle-units remain end the run, since each step charges at least 1 (40_execute_cycle.md R72), and the memory
stays canonical. -/
theorem runLoop_ends_idle {k : Nat} {s : State} (hcyc : s.cyc ≤ k) (hwf : s.mem.wf) :
    ∃ t, runLoop k s = .next t ∧ t.Idle ∧ t.mem.wf := by
  induction k generalizing s with
  | zero => exact ⟨s, rfl, .inr hcyc, hwf⟩
  | succ k ih =>
    by_cases hr : s.InRun
    · have hcost := one_le_tableCost (fetchInstr s.mem s.pc)
      have hnext : (effect (fetchInstr s.mem s.pc) s).cyc ≤ k := by rw [effect_cyc]; omega
      rw [runLoop_of_step s k _ hr (step_eq_of_inRun hr)]
      exact ih hnext (effect_keeps_wf _ hwf)
    · have hi := (idle_iff_not_inRun s).2 hr
      exact ⟨s, runLoop_of_idle s _ hi, hi, hwf⟩

/-- Execute ends idle, whatever the budget (40_execute_cycle.md R70, 60_exceptions.md R118). -/
theorem execute_ends_idle (budget : Int) {s : State} (hwf : s.mem.wf) :
    ∃ t, execute budget s = .next t ∧ t.Idle ∧ t.mem.wf :=
  runLoop_ends_idle (s := s.loadBudget budget) (Int.self_le_toNat budget) hwf

/-! ### The host operations on an idle core -/

section
variable {s : State} (h : s.Idle)
include h

theorem hostStep_construct (u : State) : hostStep (.construct u) s = .next (construct u s) := by
  simp [hostStep, inRun_eq_false s h]

theorem hostStep_reset : hostStep .reset s = .next State.reset := by
  simp [hostStep, inRun_eq_false s h, resetAll_eq]

theorem hostStep_execute (budget : Int) : hostStep (.execute budget) s = execute budget s := by
  simp [hostStep, inRun_eq_false s h]

theorem hostStep_inspect : hostStep .inspect s = .next s := by
  simp [hostStep, inRun_eq_false s h]

end

/-- A constructed core is idle whatever its `CYC`: no Execute has started it (60_exceptions.md R119). -/
theorem construct_idle (u s : State) : (construct u s).Idle := .inl rfl

theorem reset_idle : State.reset.Idle := .inl rfl

/-- A Preset is of a register or a flag: never of what makes a core idle, and never of memory (10_state.md R27). -/
theorem preset_keeps (p : Preset) (s : State) :
    (preset p s).budgetLoaded = s.budgetLoaded ∧ (preset p s).cyc = s.cyc ∧ (preset p s).mem = s.mem := by
  cases p with
  | flag f v => cases f <;> exact ⟨rfl, rfl, rfl⟩
  | _ => exact ⟨rfl, rfl, rfl⟩

theorem preset_ends_idle (p : Preset) {s : State} (h : s.Idle) (hwf : s.mem.wf) :
    (preset p s).Idle ∧ (preset p s).mem.wf := by
  obtain ⟨hloaded, hcyc, hmem⟩ := preset_keeps p s
  rw [State.Idle, hloaded, hcyc, hmem]
  exact ⟨h, hwf⟩

/-! ### The statements -/

/-- Settles O21: the step appends the events of the instruction at `PC`. -/
theorem onlyUndefinedOpcodesReport : Obligations.OnlyUndefinedOpcodesReport := by
  intro s t hr h
  rw [step_eq_of_inRun hr] at h
  cases h
  rw [effect_diags, emitted_fetchInstr, apply_ite (s.diags ++ ·), List.append_nil]

/-- Settles O45: the constructed core holds the unspecified state with its memory in canonical form, and is idle. -/
theorem constructedCoreIsIdleUntilReset : Obligations.ConstructedCoreIsIdleUntilReset := by
  intro u s h
  have hi := construct_idle u s
  exact ⟨construct u s, hostStep_construct h u, rfl, rfl, rfl, rfl, rfl, rfl, rfl, rfl, rfl, rfl, rfl, rfl, rfl,
    Memory.read_canonical u.mem, Memory.wf_canonical u.mem, rfl, hi, step_of_idle _ hi, hostStep_reset hi⟩

/-- Settles O46, by the operation: of the six only Execute runs steps, and its budget bounds them. -/
theorem hostOperationsEndIdle : Obligations.HostOperationsEndIdle := by
  intro op s h hwf
  cases op with
  | construct u => exact ⟨_, hostStep_construct h u, construct_idle u s, Memory.wf_canonical u.mem⟩
  | reset => exact ⟨_, hostStep_reset h, reset_idle, Memory.wf_nil⟩
  | poke addr v => exact ⟨_, hostStep_poke h addr v, h, Memory.wf_write _ _ _ hwf⟩
  | preset p => exact ⟨_, hostStep_preset h p, preset_ends_idle p h hwf⟩
  | execute budget => rw [hostStep_execute h]; exact execute_ends_idle budget hwf
  | inspect => exact ⟨s, hostStep_inspect h, h, hwf⟩

end Sys2Proof.Machine

/-! ## Reset (70_reset_and_hazards.md) -/

namespace Sys2Proof.Machine

/-- After reset every address reads 0 (20_memory.md R32). -/
@[simp] theorem reset_mem_read (addr : Word) : State.reset.mem.read addr = 0#8 := rfl

/-- The instruction at the reset `PC`, told from the three bytes that stand there (70_reset_and_hazards.md R121). -/
theorem fetchInstr_resetPc (m : Memory) : fetchInstr m Config.resetPc =
    decodeBytes (m.read 0xFFFC#16) (m.read 0xFFFD#16) (m.read 0xFFFE#16) := rfl

/-! ### The statements -/

/-- Settles O41: Reset answers `State.reset` from every state, and the fields of `State.reset` are the spec's. -/
theorem resetValues : Obligations.ResetValues := by
  intro s
  exact ⟨resetAll_eq s, rfl, rfl, rfl, rfl, rfl, rfl, rfl, rfl, rfl, rfl, rfl, rfl, rfl, rfl, rfl, reset_mem_read, rfl⟩

/-- Settles O42: an idle core takes the Reset, whose memory reads 0 everywhere. -/
theorem resetErasesMemory : Obligations.ResetErasesMemory := by
  intro s h
  exact ⟨State.reset, hostStep_reset h, reset_mem_read⟩

/-- Settles O43: a positive budget puts the core inside a run, whose first step fetches at the reset `PC`. -/
theorem resetReadsNoVector : Obligations.ResetReadsNoVector := by
  refine ⟨fun s => congrArg State.pc (resetAll_eq s), fun s m budget hbudget => ?_⟩
  have hr : State.InRun { resetAll s with mem := m, cyc := budget, budgetLoaded := true } := ⟨rfl, hbudget⟩
  rw [step_of_inRun _ hr]
  exact congrArg (exec · _) (fetchInstr_resetPc m)

end Sys2Proof.Machine

/-! ## The invariants of the step (10_state.md) -/

namespace Sys2Proof.Machine

/-! ### What every step keeps -/

theorem step_keeps_wf {s t : State} (hwf : s.mem.wf) (h : step s = .next t) : t.mem.wf := by
  obtain ⟨-, rfl⟩ | ⟨-, rfl⟩ := step_cases h
  · exact hwf
  · exact effect_keeps_wf _ hwf

/-- A step of a run begins with `CYC` at least 1 and costs at most 6 (40_execute_cycle.md R76). -/
theorem step_keeps_cyc_ge {s t : State} (hcyc : -5 ≤ s.cyc) (h : step s = .next t) : -5 ≤ t.cyc := by
  obtain ⟨-, rfl⟩ | ⟨⟨-, hpos⟩, rfl⟩ := step_cases h
  · exact hcyc
  · have hcost := tableCost_le_six (fetchInstr s.mem s.pc)
    rw [effect_cyc]
    omega

/-- A load derives `Z` and `N` from the `A` it leaves (41_load.md R85). -/
theorem effect_loadFlagsAgree_of_isLoad {i : Instr} (s : State) (h : isLoad i = true) : (effect i s).LoadFlagsAgree := by
  cases i with
  | jsr | undef => cases h
  | _ => exact ⟨rfl, rfl⟩

/-- JSR and the undefined opcodes touch neither `A` nor a flag. -/
theorem effect_keeps_loadFlagsAgree (i : Instr) {s : State} (h : s.LoadFlagsAgree) : (effect i s).LoadFlagsAgree := by
  cases i with
  | jsr | undef => exact h
  | _ => exact effect_loadFlagsAgree_of_isLoad s rfl

/-! ### The statements -/

/-- Settles O30: the memory stays canonical through the one store, and the lowest `CYC` is 1 less the highest cost. -/
theorem stepKeepsInvariant : Obligations.StepKeepsInvariant := by
  rintro s t ⟨hwf, hcyc⟩ h
  exact ⟨step_keeps_wf hwf h, step_keeps_cyc_ge hcyc h⟩

/-- Settles O31: after reset no byte is listed and `CYC` is 0. -/
theorem resetMeetsInvariant : Obligations.ResetMeetsInvariant :=
  ⟨Memory.wf_nil, show (-5 : Int) ≤ 0 by decide⟩

/-- Settles O32: loads establish the agreement, the other steps leave `A`, `Z` and `N`, and after reset `A` is 0 with `Z` clear. -/
theorem loadFlagsAgreementKept : Obligations.LoadFlagsAgreementKept := by
  refine ⟨fun i s t v hv h => ?_, fun s t hs h => ?_, fun hreset => ?_⟩
  · rw [exec_eq] at h
    cases h
    exact effect_loadFlagsAgree_of_isLoad s (isLoad_of_loadedByte hv)
  · obtain ⟨-, rfl⟩ | ⟨-, rfl⟩ := step_cases h
    · exact hs
    · exact effect_keeps_loadFlagsAgree _ hs
  · obtain ⟨hz, -⟩ := hreset
    exact absurd hz (by decide)

/-- Settles O18: the first JSR leaves `SP`, so the second stores over its word and at no other address. -/
theorem secondCallReplacesReturnWord : Obligations.SecondCallReplacesReturnWord := by
  intro first second s t u ht hu
  rw [exec_eq] at ht hu
  cases ht
  cases hu
  refine ⟨Memory.readWord_writeWord _ s.sp (first + 2#16), fun addr h h' => ?_⟩
  have hsp := effect_sp (.jsr first) s
  rw [effect_read_of_ne _ _ addr (by rwa [hsp]) (by rwa [hsp]), effect_read_of_ne _ s addr h h']

end Sys2Proof.Machine

/-! ## The end of a run, the idle core and the host (40_execute_cycle.md, 60_exceptions.md) -/

namespace Sys2Proof.Machine

/-! ### The first idle boundary -/

/-- `t` is the state `k` steps after `s`, with `CYC <= 0`, and `CYC` was above 0 at every boundary before (40_execute_cycle.md R76).
`runLoop_ends_at_first_idle` says that the run loop ends there. -/
def FirstIdleAfter (k : Nat) (s t : State) : Prop :=
  iterStep k s = some t ∧ t.cyc ≤ 0 ∧ ∀ j < k, ∃ u : State, iterStep j s = some u ∧ 0 < u.cyc

theorem iterStep_succ {s u : State} (h : step s = .next u) (k : Nat) : iterStep (k + 1) s = iterStep k u := by
  rw [iterStep, h]; rfl

theorem firstIdleAfter_zero {s : State} (h : s.cyc ≤ 0) : FirstIdleAfter 0 s s :=
  ⟨rfl, h, fun _ hj => absurd hj (Nat.not_lt_zero _)⟩

theorem firstIdleAfter_succ {k : Nat} {s u t : State} (hpos : 0 < s.cyc) (hstep : step s = .next u)
    (h : FirstIdleAfter k u t) : FirstIdleAfter (k + 1) s t := by
  obtain ⟨hiter, hidle, hbefore⟩ := h
  refine ⟨(iterStep_succ hstep k).trans hiter, hidle, fun j hj => ?_⟩
  cases j with
  | zero => exact ⟨s, rfl, hpos⟩
  | succ j =>
    rw [iterStep_succ hstep]
    exact hbefore j (Nat.lt_of_succ_lt_succ hj)

/-- From a state with `CYC <= 0` the first idle boundary is that state. -/
theorem eq_of_firstIdleAfter {k : Nat} {s t : State} (hcyc : s.cyc ≤ 0) (h : FirstIdleAfter k s t) : k = 0 ∧ t = s := by
  obtain ⟨hiter, -, hbefore⟩ := h
  cases k with
  | zero => exact ⟨rfl, (Option.some.inj hiter).symm⟩
  | succ k =>
    obtain ⟨u, hu, hpos⟩ := hbefore 0 (Nat.succ_pos k)
    cases hu
    exact absurd hpos hcyc.not_gt

@[simp] theorem effect_budgetLoaded (i : Instr) (s : State) : (effect i s).budgetLoaded = s.budgetLoaded := by
  cases i <;> rfl

/-- With a budget loaded, and fuel for as many steps as cycle-units remain, the run loop ends at the first idle boundary: each step
charges at least 1 (40_execute_cycle.md R72). -/
theorem runLoop_ends_at_first_idle {fuel : Nat} {s : State} (hloaded : s.budgetLoaded = true) (hfuel : s.cyc ≤ fuel) :
    ∃ t k, runLoop fuel s = .next t ∧ FirstIdleAfter k s t := by
  induction fuel generalizing s with
  | zero => exact ⟨s, 0, rfl, firstIdleAfter_zero hfuel⟩
  | succ fuel ih =>
    by_cases hpos : 0 < s.cyc
    · have hr : s.InRun := ⟨hloaded, hpos⟩
      have hstep := step_eq_of_inRun hr
      have hcost := one_le_tableCost (fetchInstr s.mem s.pc)
      have hnext : (effect (fetchInstr s.mem s.pc) s).cyc ≤ fuel := by rw [effect_cyc]; omega
      obtain ⟨t, k, hrun, hfirst⟩ := ih ((effect_budgetLoaded _ s).trans hloaded) hnext
      exact ⟨t, k + 1, (runLoop_of_step s fuel _ hr hstep).trans hrun, firstIdleAfter_succ hpos hstep hfirst⟩
    · have hcyc : s.cyc ≤ 0 := not_lt.1 hpos
      exact ⟨s, 0, runLoop_of_idle s _ (.inr hcyc), firstIdleAfter_zero hcyc⟩

/-- A property that every step keeps holds at the end of a run that began with it. -/
theorem runLoop_preserves {P : State → Prop} (hstep : ∀ {s t}, P s → step s = .next t → P t) {k : Nat} {s t : State}
    (hs : P s) (h : runLoop k s = .next t) : P t := by
  induction k generalizing s with
  | zero => cases h; exact hs
  | succ k ih =>
    by_cases hr : s.InRun
    · have hnext := step_eq_of_inRun hr
      rw [runLoop_of_step s k _ hr hnext] at h
      exact ih (hstep hs hnext) h
    · rw [runLoop_of_idle s _ ((idle_iff_not_inRun s).2 hr)] at h
      cases h; exact hs

/-! ### The host during a run -/

theorem hostStep_of_inRun {s : State} (h : s.InRun) (op : HostOp) : hostStep op s = .refused .hostActsDuringRun := by
  simp [hostStep, h]

/-- Execute's load leaves nothing of the old `CYC` (40_execute_cycle.md R81). -/
@[simp] theorem loadBudget_setCyc (s : State) (left budget : Int) :
    (s.setCyc left).loadBudget budget = s.loadBudget budget := rfl

/-! ### The statements -/

/-- Settles O39: the run loop from the state with the budget loaded, its fuel the budget. -/
theorem executeStopsAtFirstIdleBoundary : Obligations.ExecuteStopsAtFirstIdleBoundary := by
  intro budget s
  obtain ⟨t, k, hrun, hfirst⟩ := runLoop_ends_at_first_idle (s := s.loadBudget budget) rfl (Int.self_le_toNat budget)
  have ⟨hiter, hidle, hbefore⟩ := hfirst
  refine ⟨t, k, hrun, hiter, hidle, hbefore, fun hbudget => ?_, fun hbudget => eq_of_firstIdleAfter hbudget hfirst⟩
  have hstart : -5 ≤ (s.loadBudget budget).cyc := by rw [State.loadBudget_cyc]; omega
  exact runLoop_preserves (P := fun u => -5 ≤ u.cyc) step_keeps_cyc_ge hstart hrun

/-- Settles O40: Execute reads the state only with the budget loaded. -/
theorem executeLoadsCycAfresh : Obligations.ExecuteLoadsCycAfresh := by
  intro budget left s
  exact congrArg (runLoop budget.toNat) (loadBudget_setCyc s left budget)

/-- Settles O6, by the idle case of the step. -/
theorem idleStepKeepsState : Obligations.IdleStepKeepsState := step_of_idle

/-- Settles O47: the run condition is tested before the operation is looked at. -/
theorem hostRefusedDuringRun : Obligations.HostRefusedDuringRun := fun op _ h => hostStep_of_inRun h op

/-- Settles O1, by the decoder's equation for each format. -/
theorem specWordsDecode : Obligations.SpecWordsDecode :=
  ⟨decode_ldaImm 0x84 [], decode_ldaZp 0x42 [0x99], decode_ldaZpX 0x02 [], decode_jsr 0x34 0x12 [],
    decode_undef (op := 0xEA) rfl [0xA9, 0x01], decode_undef (op := 0x00) rfl []⟩

end Sys2Proof.Machine
